-- ==== Sys2Proof/Word.lean ====
section
/-! DEFINITION. The plain word types of the core: what the spec treats as bits. -/

namespace Sys2Proof

/-- A byte is 8 bits (00_scope.md section 5). -/
abbrev Byte := BitVec 8

/-- A 16-bit value: a sensor register, a command-id, a data-length, a checksum (R8, R30). -/
abbrev Half := BitVec 16

/-- A request or response word (R90, R92). -/
abbrev Word64 := BitVec 64

end Sys2Proof
end

