-- ==== Sys2Proof/Syntax.lean ====
section
/-! DEFINITION. The 23 host operations of 30_encoding.md R96, one constructor per row of spec/opcode_table.json, and the names their operands use. -/

namespace Sys2Proof

/-- The five sensor registers, in the order of the selector values 0 to 4 (R30, R93). -/
inductive Reg where
  | power
  | status
  | command
  | length
  | data0
deriving DecidableEq, Repr

/-- The six configuration parameters, in the source's order (R96, R127). -/
inductive Param where
  | phase
  | gpio
  | vsrc
  | vconst
  | tlm
  | agc
deriving DecidableEq, Repr

/-- A host operation with its operands (R96). The payload of WRREG and EXEC and the packet of PVAL
are the request's tail (R95). RDFRAME carries the index of the FRAME port it arrived on (R102 writes
it `RDFRAME @k`), since the reader of that port executes it (R232). -/
inductive Instr where
  | wrreg (reg : Reg) (payload : List Byte)
  | rdreg (reg : Reg)
  | execute (id len : Half) (payload : List Byte)
  | gboot
  | gifst
  | gstat
  | getPhase
  | setPhase (v : Half)
  | getGpio
  | setGpio (v : Half)
  | getVsrc
  | setVsrc (v : Half)
  | getVconst
  | setVconst (v : Half)
  | getTlm
  | setTlm (v : Half)
  | getAgc
  | setAgc (v : Half)
  | armtrig
  | waittrig
  | capture
  | rdframe (k : Nat)
  | pval (packet : List Byte)
deriving DecidableEq, Repr

/-- Where a request arrives (R260): the OP port, or the FRAME port of reader `k`. -/
inductive Port where
  | op
  | frame (k : Nat)
deriving DecidableEq, Repr

/-- A request as it stands at a port: the 64-bit word and the payload tail (R90, R95). -/
structure Request where
  port : Port
  word : Word64
  tail : List Byte
deriving DecidableEq, Repr

end Sys2Proof
end

