-- ==== Sys2Proof/Config.lean ====
section
/-! DEFINITION. The configuration record `Cfg` of 00_scope.md R9, its well-formedness, the fixed constants of R8, and the non-normative profile of 93_implementation_defined.md that reset is configured with. -/

namespace Sys2Proof

/-- `PACKET_BYTES` (R8). -/
abbrev packetBytes : Nat := 164

/-- `PACKETS_PER_FRAME` (R8). -/
abbrev packetsPerFrame : Nat := 60

/-- `FRAME_BYTES` (R8). -/
abbrev frameBytes : Nat := 9840

/-- `BULK_BYTES` = 59 packets (R8). -/
abbrev bulkBytes : Nat := 9676

/-- `REG_READ_BYTES` (R8). -/
abbrev regReadBytes : Nat := 2

/-- A Command is the pair of command-id and data-length (R126). -/
structure Command where
  id : Half
  len : Half
deriving DecidableEq, Repr

/-- The get and the set variant of one parameter (R127). -/
structure ParamCommands where
  get : Command
  set : Command
deriving DecidableEq, Repr

/-- `CMD_TABLE`: twelve Commands, a get and a set for each of the six parameters (R127). -/
structure CmdTable where
  phase : ParamCommands
  gpio : ParamCommands
  vsrc : ParamCommands
  vconst : ParamCommands
  tlm : ParamCommands
  agc : ParamCommands
deriving DecidableEq, Repr

/-- `REG_ADDR` of the five registers (R9). -/
structure RegAddrs where
  power : Half
  status : Half
  command : Half
  length : Half
  data0 : Half
deriving DecidableEq, Repr

/-- The parameters of R9. Durations are in microseconds; no rule depends on them (R320). -/
structure Cfg where
  devAddr : BitVec 7
  regAddr : RegAddrs
  cmdTable : CmdTable
  documented : List Int
  maxPayloadBytes : Nat
  maxPolls : Option Nat
  maxSyncAttempts : Option Nat
  pollInterval : Nat
  settleDelay : Nat
  nReaders : Nat
deriving DecidableEq, Repr

/-- The address of a register (R65). -/
def RegAddrs.of (a : RegAddrs) : Reg → Half
  | .power => a.power
  | .status => a.status
  | .command => a.command
  | .length => a.length
  | .data0 => a.data0

/-- The table entries of one parameter (R127). -/
def CmdTable.of (t : CmdTable) : Param → ParamCommands
  | .phase => t.phase
  | .gpio => t.gpio
  | .vsrc => t.vsrc
  | .vconst => t.vconst
  | .tlm => t.tlm
  | .agc => t.agc

/-- The twelve command-ids of the table. -/
def CmdTable.ids (t : CmdTable) : List Half :=
  [t.phase, t.gpio, t.vsrc, t.vconst, t.tlm, t.agc].flatMap fun p => [p.get.id, p.set.id]

/-- `popcount` of a 16-bit value (R11). -/
def popcount (v : Half) : Nat := ((List.range 16).filter fun i => v.getLsbD i).length

/-- R128 (a): the get and the set of one parameter differ in exactly one bit of the command-id. -/
abbrev ParamCommands.OneBit (p : ParamCommands) : Prop := popcount (p.get.id ^^^ p.set.id) = 1

/-- The bound is absent or at least 1 (R9). -/
def boundOk : Option Nat → Bool
  | none => true
  | some n => decide (1 ≤ n)

/-- The constraints a well-formed `Cfg` meets (R9, R128). -/
abbrev Cfg.WF (c : Cfg) : Prop :=
  [c.regAddr.power, c.regAddr.status, c.regAddr.command, c.regAddr.length, c.regAddr.data0].Nodup
    ∧ c.cmdTable.ids.Nodup
    ∧ (∀ p ∈ [c.cmdTable.phase, c.cmdTable.gpio, c.cmdTable.vsrc, c.cmdTable.vconst,
        c.cmdTable.tlm, c.cmdTable.agc], p.OneBit)
    ∧ (∀ d ∈ c.documented, -128 ≤ d ∧ d < 0)
    ∧ 2 ≤ c.maxPayloadBytes ∧ c.maxPayloadBytes ≤ 255
    ∧ boundOk c.maxPolls = true ∧ boundOk c.maxSyncAttempts = true

/-- The profile `Cfg_GK` of 93_implementation_defined.md G2, G3, G5, with the spec's defaults of D7
(data-length 2) and D10 (32 bytes), the baseline's absent bounds, a poll interval of 1 ms (R293) and
one reader. PRESUMED (the family's values, log entry 2): unsafe for a claim about reset that names
one of them; the statements about reset are made for every `Cfg`. -/
def Cfg.profile : Cfg where
  devAddr := 0x2A#7
  regAddr := ⟨0x0000#16, 0x0002#16, 0x0004#16, 0x0006#16, 0x0008#16⟩
  cmdTable := {
    phase := ⟨⟨0x4858#16, 2#16⟩, ⟨0x4859#16, 2#16⟩⟩
    gpio := ⟨⟨0x4854#16, 2#16⟩, ⟨0x4855#16, 2#16⟩⟩
    vsrc := ⟨⟨0x482C#16, 2#16⟩, ⟨0x482D#16, 2#16⟩⟩
    vconst := ⟨⟨0x483C#16, 2#16⟩, ⟨0x483D#16, 2#16⟩⟩
    tlm := ⟨⟨0x0218#16, 2#16⟩, ⟨0x0219#16, 2#16⟩⟩
    agc := ⟨⟨0x0100#16, 2#16⟩, ⟨0x0101#16, 2#16⟩⟩ }
  documented := [-1, -2, -3, -4, -5, -6, -7, -8, -9, -11, -15, -16, -18, -20, -22, -23, -24, -25,
    -26, -80, -101, -102, -103, -104, -105, -106, -107, -108, -109, -110, -111, -112, -126, -127]
  maxPayloadBytes := 32
  maxPolls := none
  maxSyncAttempts := none
  pollInterval := 1000
  settleDelay := 0
  nReaders := 1

end Sys2Proof
end

