-- ==== Sys2Proof/WellFormed.lean ====
section
/-! DEFINITION. Which operands a host operation may have under a configuration (R95, R98 c to e, R21). -/

namespace Sys2Proof

/-- The well-formed operations: a payload fits `MAX_PAYLOAD_BYTES` (R95), a packet has 164 bytes
(R210), the FRAME port exists (R21). A register selector and a 16-bit operand are always in range. -/
def Instr.wf (c : Cfg) : Instr → Bool
  | .wrreg _ payload => decide (payload.length ≤ c.maxPayloadBytes)
  | .rdreg _ => true
  | .execute _ _ payload => decide (payload.length ≤ c.maxPayloadBytes)
  | .gboot => true
  | .gifst => true
  | .gstat => true
  | .getPhase => true
  | .setPhase _ => true
  | .getGpio => true
  | .setGpio _ => true
  | .getVsrc => true
  | .setVsrc _ => true
  | .getVconst => true
  | .setVconst _ => true
  | .getTlm => true
  | .setTlm _ => true
  | .getAgc => true
  | .setAgc _ => true
  | .armtrig => true
  | .waittrig => true
  | .capture => true
  | .rdframe k => decide (k < c.nReaders)
  | .pval packet => decide (packet.length = packetBytes)

end Sys2Proof
end

