-- ==== Sys2Proof/Decode.lean ====
section
/-! DEFINITION. The decoder of a request (R90 to R101), total and rejecting by name, and the encoder written from the same tables. -/

namespace Sys2Proof

/-- Field `OP` (R90). -/
def fieldOp (w : Word64) : Byte := w.extractLsb' 0 8

/-- Field `A`, the register selector (R90). -/
def fieldA (w : Word64) : Byte := w.extractLsb' 8 8

/-- Field `PLEN`, the number of tail bytes (R90). -/
def fieldPlen (w : Word64) : Byte := w.extractLsb' 16 8

/-- Field `Z0`, which must be zero (R90). -/
def fieldZ0 (w : Word64) : Byte := w.extractLsb' 24 8

/-- Field `V0`: the operand of a SET, the command-id of EXEC (R90). -/
def fieldV0 (w : Word64) : Half := w.extractLsb' 32 16

/-- Field `V1`: the data-length of EXEC (R90). -/
def fieldV1 (w : Word64) : Half := w.extractLsb' 48 16

/-- The request word with `Z0` zero and the given fields (R90). -/
def mkWord (op a plen : Byte) (v0 v1 : Half) : Word64 :=
  v1 ++ v0 ++ 0#8 ++ plen ++ a ++ op

/-- The six request formats (R91). -/
inductive Format where
  | n
  | r
  | w
  | v
  | x
  | p
deriving DecidableEq, Repr

/-- The 23 operations by name, without operands (R96). -/
inductive Opcode where
  | wrreg
  | rdreg
  | execute
  | gboot
  | gifst
  | gstat
  | get (p : Param)
  | set (p : Param)
  | armtrig
  | waittrig
  | capture
  | rdframe
  | pval
deriving DecidableEq, Repr

/-- The opcode map, column `OP` (R96): GET even, SET odd. -/
def Opcode.byte : Opcode → Byte
  | .wrreg => 0x01#8
  | .rdreg => 0x02#8
  | .execute => 0x03#8
  | .gboot => 0x04#8
  | .gifst => 0x05#8
  | .gstat => 0x06#8
  | .get .phase => 0x10#8
  | .set .phase => 0x11#8
  | .get .gpio => 0x12#8
  | .set .gpio => 0x13#8
  | .get .vsrc => 0x14#8
  | .set .vsrc => 0x15#8
  | .get .vconst => 0x16#8
  | .set .vconst => 0x17#8
  | .get .tlm => 0x18#8
  | .set .tlm => 0x19#8
  | .get .agc => 0x1A#8
  | .set .agc => 0x1B#8
  | .armtrig => 0x30#8
  | .waittrig => 0x31#8
  | .capture => 0x40#8
  | .rdframe => 0x41#8
  | .pval => 0x42#8

/-- All 23 rows of R96. -/
def Opcode.all : List Opcode :=
  [.wrreg, .rdreg, .execute, .gboot, .gifst, .gstat,
    .get .phase, .set .phase, .get .gpio, .set .gpio, .get .vsrc, .set .vsrc,
    .get .vconst, .set .vconst, .get .tlm, .set .tlm, .get .agc, .set .agc,
    .armtrig, .waittrig, .capture, .rdframe, .pval]

/-- The operation an opcode byte names, if it is one of the 23 values of R96. -/
def Opcode.ofByte? (b : Byte) : Option Opcode := Opcode.all.find? fun o => o.byte == b

/-- Column `format` of R96. -/
def Opcode.format : Opcode → Format
  | .wrreg => .w
  | .rdreg => .r
  | .execute => .x
  | .set _ => .v
  | .pval => .p
  | .gboot => .n
  | .gifst => .n
  | .gstat => .n
  | .get _ => .n
  | .armtrig => .n
  | .waittrig => .n
  | .capture => .n
  | .rdframe => .n

/-- Which fields a format leaves unused and so must be zero (R90, R91, R98 b). -/
def unusedZero (f : Format) (w : Word64) : Bool :=
  (fieldZ0 w == 0#8)
    && (f == .r || f == .w || fieldA w == 0#8)
    && (f == .w || f == .x || f == .p || fieldPlen w == 0#8)
    && (f == .v || f == .x || fieldV0 w == 0#16)
    && (f == .x || fieldV1 w == 0#16)

/-- Which port accepts an operation (R96 column `port`, R98 f). -/
def portAccepts (o : Opcode) : Port → Bool
  | .op => o != .rdframe
  | .frame _ => o == .rdframe

/-- Selector values of field `A` (R93). -/
def Reg.selector : Reg → Byte
  | .power => 0#8
  | .status => 1#8
  | .command => 2#8
  | .length => 3#8
  | .data0 => 4#8

/-- The register a selector names; values 5 to 255 name none (R93). -/
def Reg.ofSelector? (a : Byte) : Option Reg :=
  [Reg.power, .status, .command, .length, .data0].find? fun r => r.selector == a

/-- How many tail bytes follow a request word: `PLEN` in formats W, X and P, none otherwise, and none
for an unknown opcode (R101). A FRAME port carries no tail (R260). -/
def tailLength (p : Port) (w : Word64) : Nat :=
  match p, Opcode.ofByte? (fieldOp w) with
  | .op, some o => if o.format = .w ∨ o.format = .x ∨ o.format = .p then (fieldPlen w).toNat else 0
  | .op, none => 0
  | .frame _, _ => 0

/-- Why a request is refused. All but the last two are the clauses (a) to (f) of R98. -/
inductive DecodeError where
  /-- R98 (a): `OP` is not one of the 23 values. -/
  | unknownOpcode
  /-- R98 (b): a field the format does not use is not zero. -/
  | unusedField
  /-- R98 (c): the register selector is above 4. -/
  | badSelector
  /-- R98 (d): `PLEN` is above `MAX_PAYLOAD_BYTES`. -/
  | payloadTooLong
  /-- R98 (e): `PLEN` of PVAL is not 164. -/
  | packetLength
  /-- R98 (f): the request is on the wrong port. -/
  | wrongPort
  /-- The tail handed to the decoder is not `PLEN` bytes long: no request at all (R95). -/
  | tailMismatch
  /-- The FRAME port does not exist: no request at all (R21). -/
  | noSuchPort
deriving DecidableEq, Repr

/-- The FRAME port index of a request exists (R21). -/
def portExists (c : Cfg) : Port → Bool
  | .op => true
  | .frame k => decide (k < c.nReaders)

/-- The port index, 0 for the OP port. -/
def portIndex : Port → Nat
  | .op => 0
  | .frame k => k

/-- A payload taken from the tail of format W or X (R95, R98 d). -/
def decodePayload (c : Cfg) (r : Request) (build : List Byte → Instr) : Except DecodeError Instr :=
  if c.maxPayloadBytes < (fieldPlen r.word).toNat then .error .payloadTooLong
  else if r.tail.length ≠ (fieldPlen r.word).toNat then .error .tailMismatch
  else .ok (build r.tail)

/-- An operation that takes no tail (R91). -/
def decodeNoTail (r : Request) (i : Instr) : Except DecodeError Instr :=
  if r.tail ≠ [] then .error .tailMismatch else .ok i

/-- The register operand of formats R and W (R93, R98 c). -/
def decodeReg (r : Request) (build : Reg → Except DecodeError Instr) : Except DecodeError Instr :=
  match Reg.ofSelector? (fieldA r.word) with
  | none => .error .badSelector
  | some reg => build reg

/-- A GET operation by its parameter (R96). -/
def Instr.getOf : Param → Instr
  | .phase => .getPhase
  | .gpio => .getGpio
  | .vsrc => .getVsrc
  | .vconst => .getVconst
  | .tlm => .getTlm
  | .agc => .getAgc

/-- A SET operation by its parameter (R96). -/
def Instr.setOf (v : Half) : Param → Instr
  | .phase => .setPhase v
  | .gpio => .setGpio v
  | .vsrc => .setVsrc v
  | .vconst => .setVconst v
  | .tlm => .setTlm v
  | .agc => .setAgc v

/-- The operands of a request whose opcode, port and unused fields are in order. -/
def decodeOperands (c : Cfg) (r : Request) : Opcode → Except DecodeError Instr
  | .wrreg => decodeReg r fun reg => decodePayload c r (.wrreg reg)
  | .rdreg => decodeReg r fun reg => decodeNoTail r (.rdreg reg)
  | .execute => decodePayload c r (.execute (fieldV0 r.word) (fieldV1 r.word))
  | .gboot => decodeNoTail r .gboot
  | .gifst => decodeNoTail r .gifst
  | .gstat => decodeNoTail r .gstat
  | .get p => decodeNoTail r (Instr.getOf p)
  | .set p => decodeNoTail r (Instr.setOf (fieldV0 r.word) p)
  | .armtrig => decodeNoTail r .armtrig
  | .waittrig => decodeNoTail r .waittrig
  | .capture => decodeNoTail r .capture
  | .rdframe => decodeNoTail r (.rdframe (portIndex r.port))
  | .pval =>
    if (fieldPlen r.word).toNat ≠ packetBytes then .error .packetLength
    else if r.tail.length ≠ packetBytes then .error .tailMismatch
    else .ok (.pval r.tail)

/-- The decoder: total on every request, rejecting by name (R98, R101). -/
def decode (c : Cfg) (r : Request) : Except DecodeError Instr :=
  if portExists c r.port = false then .error .noSuchPort
  else match Opcode.ofByte? (fieldOp r.word) with
    | none => .error .unknownOpcode
    | some o =>
      if portAccepts o r.port = false then .error .wrongPort
      else if unusedZero o.format r.word = false then .error .unusedField
      else decodeOperands c r o

/-- The opcode of an operation (R96). -/
def Instr.opcode : Instr → Opcode
  | .wrreg _ _ => .wrreg
  | .rdreg _ => .rdreg
  | .execute _ _ _ => .execute
  | .gboot => .gboot
  | .gifst => .gifst
  | .gstat => .gstat
  | .getPhase => .get .phase
  | .setPhase _ => .set .phase
  | .getGpio => .get .gpio
  | .setGpio _ => .set .gpio
  | .getVsrc => .get .vsrc
  | .setVsrc _ => .set .vsrc
  | .getVconst => .get .vconst
  | .setVconst _ => .set .vconst
  | .getTlm => .get .tlm
  | .setTlm _ => .set .tlm
  | .getAgc => .get .agc
  | .setAgc _ => .set .agc
  | .armtrig => .armtrig
  | .waittrig => .waittrig
  | .capture => .capture
  | .rdframe _ => .rdframe
  | .pval _ => .pval

/-- Field `A` of an operation's word (R90, R93). -/
def Instr.selectorField : Instr → Byte
  | .wrreg reg _ => reg.selector
  | .rdreg reg => reg.selector
  | _ => 0#8

/-- The tail of an operation's request (R95). -/
def Instr.tail : Instr → List Byte
  | .wrreg _ payload => payload
  | .execute _ _ payload => payload
  | .pval packet => packet
  | _ => []

/-- Field `V0` of an operation's word (R90, R97). -/
def Instr.v0Field : Instr → Half
  | .execute id _ _ => id
  | .setPhase v => v
  | .setGpio v => v
  | .setVsrc v => v
  | .setVconst v => v
  | .setTlm v => v
  | .setAgc v => v
  | _ => 0#16

/-- Field `V1` of an operation's word (R90). -/
def Instr.v1Field : Instr → Half
  | .execute _ len _ => len
  | _ => 0#16

/-- The port an operation is sent to (R96). -/
def Instr.port : Instr → Port
  | .rdframe k => .frame k
  | _ => .op

/-- The request that carries an operation (R90, R91, R95). -/
def encode (i : Instr) : Request where
  port := i.port
  word := mkWord i.opcode.byte i.selectorField (BitVec.ofNat 8 i.tail.length) i.v0Field i.v1Field
  tail := i.tail

/-- The port a word of the opcode table is offered on: FRAME port 0 for RDFRAME, else the OP port. -/
def tablePort (w : Word64) : Port :=
  if fieldOp w = Opcode.rdframe.byte then .frame 0 else .op

/-- The request of a word of the opcode table: the bits above `nbits` and all tail bytes are zero. -/
def tableRequest (nbits w : Nat) : Request :=
  let word : Word64 := BitVec.ofNat 64 (w % 2 ^ nbits)
  { port := tablePort word, word := word
    tail := List.replicate (tailLength (tablePort word) word) 0#8 }

/-- What the decoder reads from a word numbered as spec/opcode_table.json numbers it, under the
configuration of reset. -/
def decodeTableWord (nbits w : Nat) : Option Instr :=
  (decode Cfg.profile (tableRequest nbits w)).toOption

end Sys2Proof
end

