-- ==== Sys2Proof/Machine/State.lean ====
section
/-! DEFINITION. The state of the core as plain data (10_state.md), the outside world's inputs as plain data (log entries 3, 7, 8), and the state after reset (R50). -/

namespace Sys2Proof.Machine

/-- Which channel the operation in flight owns (R23, R251). -/
inductive ChanSel where
  | none
  | ctrl
  | data
deriving DecidableEq, Repr

/-- `ccs_state`, the control-channel sequencer's state register (R23, R158). -/
inductive CcsState where
  | idle
  | wrReg
  | rdReg
  | wrData
  | wrLen
  | wrCmd
  | poll
  | pollWait
  | rdData
  | rdStatus
deriving DecidableEq, Repr

/-- `fa_state`, the frame assembler's state register (R23, R230). -/
inductive FaState where
  | idle
  | sync
  | bulk
  | validate
  | publish
deriving DecidableEq, Repr

/-- The answer to one `CtrlWrite` (R12). -/
inductive WriteAnswer where
  | ok
  | err
deriving DecidableEq, Repr

/-- The answer to one `CtrlWriteRead` of two bytes (R12, R68): the bytes, or a failure. -/
inductive ReadAnswer where
  | ok (b0 b1 : Byte)
  | err
deriving DecidableEq, Repr

/-- The answer to one `DataRead` (R12): it fills from the stream, or it fails, and the failing read
may have consumed any number of stream bytes (R75, U5; log entry 4). -/
inductive DataAnswer where
  | ok
  | err (consumed : Nat)
deriving DecidableEq, Repr

/-- Who moves next (R21, R41, R73; log entry 7). -/
inductive Turn where
  /-- The OP agent takes a step. -/
  | op
  /-- FRAME port `k` carries a request word, and its READER agent serves it. -/
  | frame (k : Nat) (word : Word64)
  /-- The ENV agent delivers a frame-ready edge (R256). -/
  | edge
  /-- The core is reset, which happens only between operations (R51, R301; log entry 19). -/
  | reset
deriving DecidableEq, Repr

/-- What the core sends out (R260, R290). A transport transaction is recorded with its answer, when it
is answered (log entry 6). -/
inductive Event where
  /-- One `CtrlWrite` to a device; `ok` is false when the transport reported `Err` (R12). -/
  | ctrlWrite (dev : BitVec 7) (bytes : List Byte) (ok : Bool)
  /-- One `CtrlWriteRead` to a device, and the bytes read, if any (R12). -/
  | ctrlWriteRead (dev : BitVec 7) (wbytes : List Byte) (n : Nat) (got : Option (List Byte))
  /-- One `DataRead` of `n` bytes; `ok` is false when the transport reported `Err` (R12). -/
  | dataRead (n : Nat) (ok : Bool)
  /-- One wait of the interval timer (R293). -/
  | sleep (duration : Nat)
  /-- A response word on the OP port (R92). -/
  | opResponse (word : Word64)
  /-- A response on FRAME port `k`: the word, then the data tail (R92). -/
  | frameResponse (k : Nat) (word : Word64) (data : List Byte)
  /-- A LOG record (R290). -/
  | log (record : BitVec 16)
deriving DecidableEq, Repr

/-- A byte buffer (`asm_buf`, `fb`) as offset and byte pairs. An offset not listed reads 0
(DESIGN CHOICE, log entry 10). -/
abbrev Memory := List Host.Cell

/-- The canonical form of a buffer: offsets strictly rising, all inside the 9,840 bytes (R36, R37), and
no listed byte equal to what an unlisted offset reads as. -/
abbrev Memory.wf (m : Memory) : Prop :=
  m.Pairwise (fun c d => c.1 < d.1) ∧ ∀ c ∈ m, c.1 < frameBytes ∧ c.2 ≠ 0#8

/-- The state of the core. The first block is the spec's (10_state.md); the last two blocks hold the
outside world's inputs still to come, which R41 makes parameters of the step relation, and the record
of outputs. -/
structure State where
  /-- `Cfg` (R9, R35): written by no step (log entry 1). -/
  cfg : Cfg
  /-- `op_busy` (R23). -/
  opBusy : Bool
  /-- `chan_sel` (R23). -/
  chanSel : ChanSel
  /-- `ccs_state` (R23). -/
  ccsState : CcsState
  /-- `fa_state` (R23). -/
  faState : FaState
  /-- `op_r` (R24). -/
  opR : Byte
  /-- `reg_r` (R24). -/
  regR : Byte
  /-- `cmd_id_r` (R24). -/
  cmdIdR : Half
  /-- `cmd_len_r` (R24). -/
  cmdLenR : Half
  /-- `val_r` (R24). -/
  valR : Half
  /-- `pay_r`: the live payload bytes (R24, log entry 9). -/
  payR : List Byte
  /-- `pay_len_r` (R24). -/
  payLenR : Byte
  /-- `status_r` (R24). -/
  statusR : Half
  /-- `rd_val_r` (R24). -/
  rdValR : Half
  /-- `sc_r`, read as signed (R24). -/
  scR : Byte
  /-- `poll_cnt` (R24, R293). -/
  pollCnt : Nat
  /-- `sync_cnt` (R24, R293). -/
  syncCnt : Nat
  /-- `pkt_idx` (R24). -/
  pktIdx : BitVec 6
  /-- `crc_r` (R24). -/
  crcR : Half
  /-- `scratch` (R24, R39). -/
  scratch : List Byte
  /-- `fb_valid` (R25). -/
  fbValid : Bool
  /-- `trig_armed` (R25). -/
  trigArmed : Bool
  /-- `trig_pending` (R25). -/
  trigPending : Bool
  /-- `fb_lock`, true while held (R25, R72). -/
  fbLock : Bool
  /-- `asm_buf` (R36). -/
  asmBuf : Memory
  /-- `fb`, the FrameBuffer (R37). -/
  fb : Memory
  /-- The turns still to come; when none is left the OP agent moves (log entry 7). -/
  sched : List Turn
  /-- Request words waiting at the OP port, the first one first (R252; log entry 8). -/
  opWords : List Word64
  /-- Tail bytes waiting at the OP port (R95, R260; log entry 8). -/
  opPay : List Byte
  /-- Answers to the coming `CtrlWrite`s (log entry 3). -/
  cbWriteRsp : List WriteAnswer
  /-- Answers to the coming `CtrlWriteRead`s (log entry 3). -/
  cbReadRsp : List ReadAnswer
  /-- Answers to the coming `DataRead`s (log entry 3). -/
  dbRsp : List DataAnswer
  /-- The bytes the data stream will carry (R60; log entry 3). -/
  stream : List Byte
  /-- How many waits of the interval timer will run out (R293, R297; log entry 27). -/
  timerRsp : Nat
  /-- Everything sent out so far, newest first (log entry 24). -/
  trace : List Event
deriving DecidableEq, Repr

/-- Why the machine would stop with a fault: never. The spec gives the core no trap; an error class is
a response (R282) and a hang is an infinite run (R284), so this type has no constructor and nobody
raises it (safe). -/
inductive Fault where
deriving DecidableEq, Repr

/-- Why an operation has no meaning. -/
inductive Refusal where
  /-- Raised by an arm of `exec` whose operation has no meaning yet. No arm does: every operation of
  the table is modelled. Safe: nothing is claimed of such an operation. -/
  | notModelled (mnemonic : String)
deriving DecidableEq, Repr

/-- The state after reset under a given configuration (R50, R300). Every latch and buffer the spec
leaves unspecified holds 0 or nothing (DESIGN CHOICE, log entries 9 and 10, unsafe), and the outside
world has nothing to offer yet (log entry 20). -/
def State.resetWith (c : Cfg) : State where
  cfg := c
  opBusy := false
  chanSel := .none
  ccsState := .idle
  faState := .idle
  opR := 0#8
  regR := 0#8
  cmdIdR := 0#16
  cmdLenR := 0#16
  valR := 0#16
  payR := []
  payLenR := 0#8
  statusR := 0#16
  rdValR := 0#16
  scR := 0#8
  pollCnt := 0
  syncCnt := 0
  pktIdx := 0#6
  crcR := 0#16
  scratch := List.replicate packetBytes 0#8
  fbValid := false
  trigArmed := false
  trigPending := false
  fbLock := false
  asmBuf := []
  fb := []
  sched := []
  opWords := []
  opPay := []
  cbWriteRsp := []
  cbReadRsp := []
  dbRsp := []
  stream := []
  timerRsp := 0
  trace := []

/-- The machine right after reset (R50), configured with the family's profile (PRESUMED, log entry 2,
unsafe). -/
def State.reset : State := State.resetWith Cfg.profile

end Sys2Proof.Machine
end

