-- ==== Sys2Proof/Machine/Operands.lean ====
section
/-! DEFINITION. Operand forms: byte order and integer readings (R11, R66, R67), register addresses (R65, R94), command table look-up (R127), the channel of an operation (R96). -/

namespace Sys2Proof.Machine

/-- `be16(b0, b1)`: the 16-bit value of two bytes, most significant first (R11). -/
def be16 (b0 b1 : Byte) : Half := b0 ++ b1

/-- `to_be16(v)`: the two bytes of a 16-bit value, most significant first (R11). -/
def toBe16 (v : Half) : List Byte := [v.extractLsb' 8 8, v.extractLsb' 0 8]

/-- `sext8(b)`: the signed reading of a byte (R11). -/
def sext8 (b : Byte) : Int := if b.toNat < 128 then b.toNat else (b.toNat : Int) - 256

/-- `s16(v)`: the signed reading of a 16-bit value (R11). -/
def s16 (v : Half) : Int := if v.toNat < 32768 then v.toNat else (v.toNat : Int) - 65536

/-- `u16(n)`: the 16-bit two's-complement encoding of an integer (R11). -/
def u16 (n : Int) : Half := BitVec.ofInt 16 n

/-- `addr(r) = to_be16(REG_ADDR[r])`: the two address bytes of a register on the wire (R94, R158). -/
def addrBytes (c : Cfg) (r : Reg) : List Byte := toBe16 (c.regAddr.of r)

/-- `CMD_TABLE[GET_x]` (R127). -/
def getCommand (c : Cfg) (p : Param) : Command := (c.cmdTable.of p).get

/-- `CMD_TABLE[SET_x]` (R127). -/
def setCommand (c : Cfg) (p : Param) : Command := (c.cmdTable.of p).set

/-- Column `chan` of R96: the channel the multiplexer grants an operation (R251). -/
def chanOf : Opcode → ChanSel
  | .wrreg => .ctrl
  | .rdreg => .ctrl
  | .execute => .ctrl
  | .gboot => .ctrl
  | .gifst => .ctrl
  | .gstat => .ctrl
  | .get _ => .ctrl
  | .set _ => .ctrl
  | .capture => .data
  | .armtrig => .none
  | .waittrig => .none
  | .rdframe => .none
  | .pval => .none

/-- The register selector held in `reg_r`. Only values 0 to 4 are ever latched; any other reads as
POWER, which no run reaches (log entry 25). -/
def latchedReg (a : Byte) : Reg := (Reg.ofSelector? a).getD .power

/-- The line identifier of a block of stream bytes: `be16(b[0], b[1])` (R63, R222). -/
def lineId (b : List Byte) : Half := be16 (b.getD 0 0#8) (b.getD 1 0#8)

end Sys2Proof.Machine
end

