-- ==== Sys2Proof/Machine/Flags.lean ====
section
/-! DEFINITION. The STATUS fields (R31), the status taxonomy (R120), the outcome values (R27), the result classes (R270) and the response word they are encoded in (R92, R100). -/

namespace Sys2Proof.Machine

/-- The interface-busy bit of STATUS, bit 0: 0 = ready, 1 = busy (R31). -/
def busyBit (s : Half) : Bool := s.getLsbD 0

/-- The boot status bit of STATUS, bit 1 (R31). -/
def bootBit (s : Half) : Bool := s.getLsbD 1

/-- The raw status byte of STATUS, bits 15:8 (R31). -/
def statusByte (s : Half) : Byte := s.extractLsb' 8 8

/-- The outcome of the status taxonomy (R120). -/
inductive StatusClass where
  | ok
  | named (c : Int)
  | unknown
deriving DecidableEq, Repr

/-- `classify(c)` with the documented codes of the configuration (R120, R124). -/
def classify (documented : List Int) (c : Int) : StatusClass :=
  if c = 0 then .ok else if c ∈ documented then .named c else .unknown

/-- The field `SCC` of a status class (R92). -/
def StatusClass.code : StatusClass → BitVec 2
  | .ok => 1#2
  | .named _ => 2#2
  | .unknown => 3#2

/-- Why a packet is discarded (R200). -/
inductive Reason where
  | marked
  | checksum
deriving DecidableEq, Repr

/-- The outcome of the packet validator (R27, R200). -/
inductive Verdict where
  | accept
  | discard (r : Reason)
deriving DecidableEq, Repr

/-- The number of a discard reason in `AUX` and in the LOG record (R92, R290). -/
def Reason.code : Reason → Byte
  | .marked => 1#8
  | .checksum => 2#8

/-- The field `AUX` of a verdict (R100). -/
def Verdict.code : Verdict → Byte
  | .accept => 0#8
  | .discard r => r.code

/-- The error classes an operation or a request can end with (R270). -/
inductive ErrorClass where
  | ctrlBusError
  | dataBusError
  | deviceUnresponsive
  | syncExhausted
  | illegalOp
deriving DecidableEq, Repr

/-- The value of `RC` of an error class (R270). -/
def ErrorClass.code : ErrorClass → Byte
  | .ctrlBusError => 0x01#8
  | .dataBusError => 0x02#8
  | .deviceUnresponsive => 0x03#8
  | .syncExhausted => 0x04#8
  | .illegalOp => 0x07#8

/-- What an operation ends with (R100, R270). -/
inductive Result where
  /-- WRREG, EXEC, ARMTRIG, WAITTRIG. -/
  | done
  /-- RDREG: the register value. -/
  | value (v : Half)
  /-- GBOOT, GIFST: a Boolean. -/
  | truth (b : Bool)
  /-- GSTAT, SET_x: the raw status byte and its class. -/
  | status (raw : Byte) (cls : StatusClass)
  /-- GET_x: the value with the raw status byte and its class. -/
  | valueStatus (v : Half) (raw : Byte) (cls : StatusClass)
  /-- PVAL: the validator's outcome. -/
  | verdict (v : Verdict)
  /-- CAPTURE, frame published. -/
  | updated
  /-- CAPTURE, frame discarded: the reason and the index of the first discarded packet. -/
  | noUpdate (r : Reason) (index : Nat)
  /-- RDFRAME with a frame; the frame itself is the data tail. -/
  | frame
  /-- RDFRAME before the first publish. -/
  | empty
  /-- An error class. -/
  | error (e : ErrorClass)
deriving DecidableEq, Repr

/-- The response word with the reserved fields zero (R92). -/
def mkResponse (rc sc : Byte) (scc : BitVec 2) (val : Half) (aux : Byte) : Word64 :=
  0#8 ++ aux ++ val ++ 0#14 ++ scc ++ sc ++ rc

/-- `encode(result)`: the response word of a result (R92, R100, R270). -/
def Result.word : Result → Word64
  | .done => mkResponse 0x00#8 0#8 0#2 0#16 0#8
  | .value v => mkResponse 0x00#8 0#8 0#2 v 0#8
  | .truth b => mkResponse 0x00#8 0#8 0#2 (if b then 1#16 else 0#16) 0#8
  | .status raw cls => mkResponse 0x00#8 raw cls.code 0#16 0#8
  | .valueStatus v raw cls => mkResponse 0x00#8 raw cls.code v 0#8
  | .verdict v => mkResponse 0x00#8 0#8 0#2 0#16 v.code
  | .updated => mkResponse 0x00#8 0#8 0#2 0#16 0#8
  | .noUpdate r index => mkResponse 0x05#8 0#8 0#2 (BitVec.ofNat 16 index) r.code
  | .frame => mkResponse 0x00#8 0#8 0#2 0#16 0#8
  | .empty => mkResponse 0x06#8 0#8 0#2 0#16 0#8
  | .error e => mkResponse e.code 0#8 0#2 0#16 0#8

/-- The LOG record of a discarded frame: index in bits 7:0, reason in bits 9:8, zeros above (R290). -/
def logRecord (r : Reason) (index : Nat) : BitVec 16 :=
  0#6 ++ r.code.extractLsb' 0 2 ++ BitVec.ofNat 8 index

end Sys2Proof.Machine
end

