-- ==== Sys2Proof/Machine/Ops.lean ====
section
/-! DEFINITION. The named operations over the state: buffers, transport primitives (R12), acceptance, response and the delivery of an error (R252, R282), the log, the lock and the frame-ready edge. -/

namespace Sys2Proof.Machine

/-- The byte of a buffer at an offset; an unlisted offset reads 0 (log entry 10). -/
def Memory.read : Memory → Nat → Byte
  | [], _ => 0#8
  | (k, b) :: rest, a => if k = a then b else Memory.read rest a

/-- The cells of a run of bytes from an offset on, zeros left out. -/
def Memory.cells : Nat → List Byte → Memory
  | _, [] => []
  | a, b :: bs => if b = 0#8 then Memory.cells (a + 1) bs else (a, b) :: Memory.cells (a + 1) bs

/-- Store a block of bytes at an offset, keeping the canonical form. -/
def Memory.writeBlock (m : Memory) (a : Nat) (bs : List Byte) : Memory :=
  m.filter (fun c => decide (c.1 < a)) ++ Memory.cells a bs
    ++ m.filter (fun c => decide (a + bs.length ≤ c.1))

/-- The `n` bytes from offset `a` on, read from cells that lie at `a` or above in rising order. -/
def Memory.walk : Memory → Nat → Nat → List Byte
  | _, _, 0 => []
  | [], a, n + 1 => 0#8 :: Memory.walk [] (a + 1) n
  | (k, b) :: rest, a, n + 1 =>
    if k = a then b :: Memory.walk rest (a + 1) n
    else 0#8 :: Memory.walk ((k, b) :: rest) (a + 1) n

/-- The block of `n` bytes of a canonical buffer at offset `a`. -/
def Memory.readBlock (m : Memory) (a n : Nat) : List Byte :=
  Memory.walk (m.dropWhile fun c => decide (c.1 < a)) a n

/-- Packet `i` of a frame: bytes `164×i` to `164×i + 163` (R36, R64, R71). -/
def Memory.packet (m : Memory) (i : Nat) : List Byte := m.readBlock (packetBytes * i) packetBytes

/-- Send an event out. -/
def emit (e : Event) (s : State) : State := { s with trace := e :: s.trace }

/-- The outcome of a transport primitive (R12): not answered yet, `Err`, or `Ok` with a value. -/
inductive Reply (α : Type) where
  | wait
  | err (s : State)
  | ok (a : α) (s : State)
deriving DecidableEq, Repr

/-- `CtrlWrite(bytes)` to the one device address (R12, R61). -/
def ctrlWrite (bytes : List Byte) (s : State) : Reply Unit :=
  match s.cbWriteRsp with
  | [] => .wait
  | .err :: rest => .err (emit (.ctrlWrite s.cfg.devAddr bytes false) { s with cbWriteRsp := rest })
  | .ok :: rest => .ok () (emit (.ctrlWrite s.cfg.devAddr bytes true) { s with cbWriteRsp := rest })

/-- `CtrlWriteRead(wbytes, 2)` to the one device address (R12, R61, R68). -/
def ctrlWriteRead (wbytes : List Byte) (s : State) : Reply (Byte × Byte) :=
  match s.cbReadRsp with
  | [] => .wait
  | .err :: rest =>
    .err (emit (.ctrlWriteRead s.cfg.devAddr wbytes regReadBytes none) { s with cbReadRsp := rest })
  | .ok b0 b1 :: rest =>
    .ok (b0, b1) (emit (.ctrlWriteRead s.cfg.devAddr wbytes regReadBytes (some [b0, b1]))
      { s with cbReadRsp := rest })

/-- `DataRead(n)`: the next `n` bytes of the stream, all of them or a failure (R12, R60, R261). It is
not answered while the stream holds fewer bytes than the answer consumes. -/
def dataRead (n : Nat) (s : State) : Reply (List Byte) :=
  match s.dbRsp with
  | [] => .wait
  | .err k :: rest =>
    if s.stream.length < k then .wait
    else .err (emit (.dataRead n false) { s with dbRsp := rest, stream := s.stream.drop k })
  | .ok :: rest =>
    if s.stream.length < n then .wait
    else .ok (s.stream.take n)
      (emit (.dataRead n true) { s with dbRsp := rest, stream := s.stream.drop n })

/-- `Sleep(POLL_INTERVAL)`: no answer while the interval timer has not run out, then the wait is over
and recorded. It changes no state of the core (R12, R293, R297; log entry 27). -/
def sleepPoll (s : State) : Option State :=
  match s.timerRsp with
  | 0 => none
  | n + 1 => some (emit (.sleep s.cfg.pollInterval) { s with timerRsp := n })

/-- Acceptance of a request: busy, opcode latched, channel granted (R251, R252). The operand latches of
R24 are written by the operations that use them and by no other: whether acceptance also writes a latch
its operation does not use is open (DESIGN CHOICE, log entry 26). -/
def accept (o : Opcode) (s : State) : State :=
  { s with opBusy := true, opR := o.byte, chanSel := chanOf o }

/-- The end of an operation: the response goes out, the grant and the busy flag fall, both state
machines are idle (R251, R252, R282). -/
def respond (r : Result) (s : State) : State :=
  emit (.opResponse r.word)
    { s with opBusy := false, chanSel := .none, ccsState := .idle, faState := .idle }

/-- `raise E`, the core's only exception: the operation in flight ends at once with the error class as
its response, nothing is undone and nothing else is saved (R14, R282). There is no handler and no
return from it (R283). -/
def raise (e : ErrorClass) (s : State) : State := respond (.error e) s

/-- A request on the OP port that is illegal gets `ILLEGAL_OP` and has no other effect (R98, R278). -/
def refuseOp (s : State) : State := emit (.opResponse (Result.error .illegalOp).word) s

/-- A request on FRAME port `k` that is illegal gets `ILLEGAL_OP` and has no other effect (R98). -/
def refuseFrame (k : Nat) (s : State) : State :=
  emit (.frameResponse k (Result.error .illegalOp).word []) s

/-- What follows a transport primitive: hold while it is not answered, raise on `Err`, go on with the
value on `Ok` (R14, R78). -/
def onReply {α : Type} (r : Reply α) (hold : State) (e : ErrorClass) (go : α → State → State) : State :=
  match r with
  | .wait => hold
  | .err s => raise e s
  | .ok a s => go a s

/-- Dispatch of a legal request on the OP port (R252): accepted only while `op_busy` is 0 (R77), else
it waits at the port and nothing changes (log entry 16). -/
def dispatch (o : Opcode) (run : State → State) (s : State) : Host.Outcome State Fault Refusal :=
  if s.opBusy then .next s else .next (run (accept o s))

/-- `Lock` of `fb_lock` (R17, R72). -/
def lock (s : State) : State := { s with fbLock := true }

/-- `Unlock` of `fb_lock` (R17, R72). -/
def unlock (s : State) : State := { s with fbLock := false }

/-- `Log(reason, i)`: one record on the LOG port (R16, R290). -/
def logDiscard (r : Reason) (index : Nat) (s : State) : State := emit (.log (logRecord r index)) s

/-- `Edge()`: a frame-ready edge sets pending and disarms if armed, and is lost otherwise (R256). -/
def edge (s : State) : State :=
  if s.trigArmed then { s with trigPending := true, trigArmed := false } else s

/-- A reset of the core: every state element of R50 at its reset value, `Cfg` kept, and the outside
world's inputs as they are, the sensor's stream among them (R301, R302). It is offered only between
operations: one that finds the OP agent busy does not happen (R51, log entry 19). -/
def resetCore (s : State) : State :=
  if s.opBusy then s
  else
    { State.resetWith s.cfg with
      sched := s.sched, opWords := s.opWords, opPay := s.opPay
      cbWriteRsp := s.cbWriteRsp, cbReadRsp := s.cbReadRsp, dbRsp := s.dbRsp, stream := s.stream
      timerRsp := s.timerRsp
      trace := s.trace }

end Sys2Proof.Machine
end

