-- ==== Sys2Proof/Machine/Validator.lean ====
section
/-! DEFINITION. The packet validator PV: `crc16` (R203), `validate` (R200), and the PVAL operation (R210). -/

namespace Sys2Proof.Machine

/-- One bit step of the CRC: shift left, and add the polynomial `0x1021` when bit 15 falls out (R203;
the numbers are 93_implementation_defined.md G1, log entry 14). -/
def crcStep (c : Half) : Half :=
  if c.getLsbD 15 then (c <<< 1) ^^^ 0x1021#16 else c <<< 1

/-- `n` bit steps. -/
def crcSteps : Nat → Half → Half
  | 0, c => c
  | n + 1, c => crcSteps n (crcStep c)

/-- One byte of the CRC: added to the upper byte, then eight bit steps (R203). -/
def crcByte (c : Half) (b : Byte) : Half := crcSteps 8 (c ^^^ (b.zeroExtend 16 <<< 8))

/-- `crc16(m)`, from `0x0000` over all bytes, most significant bit first (R203). -/
def crc16 (m : List Byte) : Half := m.foldl crcByte 0x0000#16

/-- The discard marker: the low nibble of byte 0 is `0xF` (R201). -/
def marked (p : List Byte) : Bool := p.getD 0 0#8 &&& 0x0F#8 == 0x0F#8

/-- The validator's copy of a packet: top nibble of byte 0 and bytes 2 and 3 zeroed (R200, R202). -/
def maskPacket (p : List Byte) : List Byte :=
  ((p.set 0 (p.getD 0 0#8 &&& 0x0F#8)).set 2 0x00#8).set 3 0x00#8

/-- The checksum a packet carries: `be16(p[2], p[3])`, from the packet itself (R204). -/
def storedCrc (p : List Byte) : Half := be16 (p.getD 2 0#8) (p.getD 3 0#8)

/-- `validate(p)`: marker first, then the checksum (R200, R281 d). -/
def validate (p : List Byte) : Verdict :=
  if marked p then .discard .marked
  else if crc16 (maskPacket p) ≠ storedCrc p then .discard .checksum
  else .accept

/-- What a validation leaves in `scratch` and `crc_r`: nothing new for a marked packet, else the masked
copy and its CRC (R200). -/
def latchValidation (p : List Byte) (s : State) : State :=
  if marked p then s else { s with scratch := maskPacket p, crcR := crc16 (maskPacket p) }

/-- PVAL (R210): the validator on a packet of the host's. It holds no channel and makes no transaction. -/
def execPval (packet : List Byte) (s : State) : Host.Outcome State Fault Refusal :=
  dispatch .pval (fun t => respond (.verdict (validate packet)) (latchValidation packet t)) s

end Sys2Proof.Machine
end

