-- ==== Sys2Proof/Machine/Assembler.lean ====
section
/-! DEFINITION. The frame assembler FA: one function per state of `fa_state` (R230), the CAPTURE operation (R220) and RDFRAME (R232). -/

namespace Sys2Proof.Machine

/-- State `F_PUBLISH`: under the lock `asm_buf` replaces `fb` and `fb_valid` becomes 1 (R228). While
another agent holds the lock it waits (R72; log entry 15). -/
def runPublish (s : State) : State :=
  if s.fbLock then { s with faState := .publish }
  else
    let t := lock { s with faState := .publish }
    respond .updated (unlock { t with fb := t.asmBuf, fbValid := true })

/-- State `F_VALIDATE`: the packets in index order, `n` of them left from index `i` on; the first
discard ends the capture with its reason and index (R225, R227). -/
def validateFrom : Nat → Nat → State → State
  | 0, _, s => runPublish s
  | n + 1, i, s =>
    let p := s.asmBuf.packet i
    let t := latchValidation p { s with faState := .validate, pktIdx := BitVec.ofNat 6 i }
    match validate p with
    | .accept => validateFrom n (i + 1) t
    | .discard r => respond (.noUpdate r i) (logDiscard r i t)

/-- All 60 packets from index 0 (R225). -/
def runValidate (s : State) : State := validateFrom packetsPerFrame 0 s

/-- State `F_BULK`: one read of 9,676 bytes into bytes 164 to 9839 of `asm_buf`; a failure is not
retried (R224, R272). -/
def runBulk (s : State) : State :=
  onReply (dataRead bulkBytes { s with faState := .bulk }) { s with faState := .bulk }
    .dataBusError fun b t => runValidate { t with asmBuf := t.asmBuf.writeBlock packetBytes b }

/-- The bound `MAX_SYNC_ATTEMPTS` is a number and has been reached (R223). -/
def syncBound (s : State) : Bool :=
  match s.cfg.maxSyncAttempts with
  | none => false
  | some n => decide (n ≤ s.syncCnt)

/-- State `F_SYNC`: read 164-byte blocks until one has identifier 0 in all 16 bits; a failed read is
retried, any other block is dropped, the bound is tested before each read (R220 to R223, R230). `n` is
the number of answers at hand; a read counts once it is answered (log entry 6). -/
def syncLoop : Nat → State → State
  | 0, s => if syncBound s then raise .syncExhausted s else { s with faState := .sync }
  | n + 1, s =>
    if syncBound s then raise .syncExhausted s
    else match dataRead packetBytes { s with faState := .sync } with
      | .wait => { s with faState := .sync }
      | .err t => syncLoop n { t with syncCnt := t.syncCnt + 1 }
      | .ok b t =>
        if lineId b = 0#16 then
          runBulk { t with syncCnt := t.syncCnt + 1, asmBuf := t.asmBuf.writeBlock 0 b }
        else syncLoop n { t with syncCnt := t.syncCnt + 1 }

/-- The synchronisation loop, as far as the data bus has answered (R221). -/
def runSync (s : State) : State := syncLoop s.dbRsp.length s

/-- Go on from the state the assembler holds in (R230). -/
def faRun (s : State) : State :=
  match s.faState with
  | .idle => s
  | .sync => runSync s
  | .bulk => runBulk s
  | .validate => validateFrom (packetsPerFrame - s.pktIdx.toNat) s.pktIdx.toNat s
  | .publish => runPublish s

/-- CAPTURE (R220): it does not look at the trigger latch (R258). -/
def execCapture (s : State) : Host.Outcome State Fault Refusal :=
  dispatch .capture (fun t => runSync { t with syncCnt := 0 }) s

/-- RDFRAME on FRAME port `k` (R232): the whole FrameBuffer, or `Empty`, under the lock, whatever the
OP agent is doing (R253). While the lock is held it waits (R72; log entry 15). -/
def execRdframe (k : Nat) (s : State) : Host.Outcome State Fault Refusal :=
  if s.fbLock then .next s
  else
    let t := lock s
    .next (if t.fbValid then
        emit (.frameResponse k Result.frame.word (t.fb.readBlock 0 frameBytes)) (unlock t)
      else emit (.frameResponse k Result.empty.word []) (unlock t))

end Sys2Proof.Machine
end

