-- ==== Sys2Proof/Machine/Ccs.lean ====
section
/-! DEFINITION. The control-channel sequencer: the subroutines WRREG and RDREG (R141, R143) and one function per state of `ccs_state` (R158), each going on to the next as far as the transport has answered. -/

namespace Sys2Proof.Machine

/-- `WRREG(r, payload)` as a subroutine: one write of the address followed by the payload (R140, R94). -/
def writeReg (r : Reg) (payload : List Byte) (s : State) : Reply Unit :=
  ctrlWrite (addrBytes s.cfg r ++ payload) s

/-- `RDREG(r)` as a subroutine: one combined write-then-read of two bytes, big-endian (R142, R94). -/
def readReg (r : Reg) (s : State) : Reply Half :=
  match ctrlWriteRead (addrBytes s.cfg r) s with
  | .wait => .wait
  | .err t => .err t
  | .ok (b0, b1) t => .ok (be16 b0 b1) t

/-- The StatusCode part of an operation: `sc_r` is the signed upper byte of `status_r` (R125, R152). -/
def latchStatusCode (s : State) : State := { s with scR := statusByte s.statusR }

/-- The class of the status code in `sc_r` (R120, R152). -/
def statusClass (s : State) : StatusClass := classify s.cfg.documented (sext8 s.scR)

/-- The response after the last STATUS read, by the operation in flight: GBOOT (R150), GIFST (R151),
GSTAT (R152), SET_x and GET_x (R170). -/
def finishStatus (s : State) : State :=
  match Opcode.ofByte? s.opR with
  | some .gboot => respond (.truth (bootBit s.statusR)) s
  | some .gifst => respond (.truth (!busyBit s.statusR)) s
  | some (.get _) =>
    respond (.valueStatus s.rdValR (statusByte s.statusR) (statusClass (latchStatusCode s)))
      (latchStatusCode s)
  | _ =>
    respond (.status (statusByte s.statusR) (statusClass (latchStatusCode s))) (latchStatusCode s)

/-- State `C_RD_STATUS`: read STATUS into `status_r` and respond (R158). -/
def runRdStatus (s : State) : State :=
  onReply (readReg .status { s with ccsState := .rdStatus }) { s with ccsState := .rdStatus }
    .ctrlBusError fun v t => finishStatus { t with statusR := v }

/-- State `C_RD_DATA`: read DATA0 into `rd_val_r`, then the status (R158, R170). -/
def runRdData (s : State) : State :=
  onReply (readReg .data0 { s with ccsState := .rdData }) { s with ccsState := .rdData }
    .ctrlBusError fun v t => runRdStatus { t with rdValR := v }

/-- Where the poll loop leads once bit 0 is clear: EXEC responds, SET_x reads the status, GET_x reads
the data (R158). -/
def afterPoll (s : State) : State :=
  match Opcode.ofByte? s.opR with
  | some (.set _) => runRdStatus s
  | some (.get _) => runRdData s
  | _ => respond .done s

/-- The bound `MAX_POLLS` is a number and has been reached (R148). -/
def pollBound (s : State) : Bool :=
  match s.cfg.maxPolls with
  | none => false
  | some n => decide (n ≤ s.pollCnt)

/-- State `C_POLL_WAIT`: hold until the interval timer has run out, then go on with `poll`, which is
state `C_POLL` (R158, R297). -/
def pollWait (poll : State → State) (s : State) : State :=
  match sleepPoll { s with ccsState := .pollWait } with
  | none => { s with ccsState := .pollWait }
  | some t => poll t

/-- State `C_POLL`: read STATUS; leave on bit 0 clear, raise on the bound, else wait in `C_POLL_WAIT`
and read again (R147, R148, R158, R281 c). `n` is the number of answers at hand. -/
def pollLoop : Nat → State → State
  | 0, s => { s with ccsState := .poll }
  | n + 1, s =>
    onReply (readReg .status { s with ccsState := .poll }) { s with ccsState := .poll }
      .ctrlBusError fun v t =>
        let u := { t with statusR := v, pollCnt := t.pollCnt + 1 }
        if busyBit v = false then afterPoll u
        else if pollBound u then raise .deviceUnresponsive u
        else pollWait (pollLoop n) u

/-- The poll loop, as far as STATUS reads have been answered (R147). -/
def runPoll (s : State) : State := pollLoop s.cbReadRsp.length s

/-- State `C_WR_CMD`: write the command-id, which starts the command; the loop starts from 0 (R144,
R158). -/
def runWrCmd (s : State) : State :=
  onReply (writeReg .command (toBe16 s.cmdIdR) { s with ccsState := .wrCmd })
    { s with ccsState := .wrCmd } .ctrlBusError fun _ t => runPoll { t with pollCnt := 0 }

/-- State `C_WR_LEN`: write the data-length, before the command-id (R146, R158). -/
def runWrLen (s : State) : State :=
  onReply (writeReg .length (toBe16 s.cmdLenR) { s with ccsState := .wrLen })
    { s with ccsState := .wrLen } .ctrlBusError fun _ t => runWrCmd t

/-- State `C_WR_DATA`: write the payload to DATA0 (R145, R158). -/
def runWrData (s : State) : State :=
  onReply (writeReg .data0 s.payR { s with ccsState := .wrData })
    { s with ccsState := .wrData } .ctrlBusError fun _ t => runWrLen t

/-- State `C_WR_REG` (R140, R158). -/
def runWrReg (s : State) : State :=
  onReply (writeReg (latchedReg s.regR) s.payR { s with ccsState := .wrReg })
    { s with ccsState := .wrReg } .ctrlBusError fun _ t => respond .done t

/-- State `C_RD_REG` (R142, R158). -/
def runRdReg (s : State) : State :=
  onReply (readReg (latchedReg s.regR) { s with ccsState := .rdReg })
    { s with ccsState := .rdReg } .ctrlBusError fun v t => respond (.value v) { t with rdValR := v }

/-- Go on from the state the sequencer holds in (R158). -/
def ccsRun (s : State) : State :=
  match s.ccsState with
  | .idle => s
  | .wrReg => runWrReg s
  | .rdReg => runRdReg s
  | .wrData => runWrData s
  | .wrLen => runWrLen s
  | .wrCmd => runWrCmd s
  | .poll => runPoll s
  | .pollWait => pollWait runPoll s
  | .rdData => runRdData s
  | .rdStatus => runRdStatus s

/-- Latch a payload and its length (R24). -/
def latchPayload (payload : List Byte) (s : State) : State :=
  { s with payR := payload, payLenR := BitVec.ofNat 8 payload.length }

/-- Latch a Command (R24). -/
def latchCommand (c : Command) (s : State) : State := { s with cmdIdR := c.id, cmdLenR := c.len }

/-- `EXEC` from its first state: the DATA0 write when there is a payload, else the LENGTH write (R144,
R145, R158). -/
def runExec (s : State) : State := if s.payR = [] then runWrLen s else runWrData s

/-- `SET_SEQ(k, v)` (R170): the payload is `to_be16(v)` (R97; log entry 13). -/
def runSet (p : Param) (v : Half) (s : State) : State :=
  runWrData (latchPayload (toBe16 v) (latchCommand (setCommand s.cfg p) { s with valR := v }))

/-- `GET_SEQ(k)` (R170): no payload, so the sequence begins with the LENGTH write (R145) and reads
neither `pay_r` nor `pay_len_r`; the model leaves both as they are (DESIGN CHOICE, log entry 26). -/
def runGet (p : Param) (s : State) : State := runWrLen (latchCommand (getCommand s.cfg p) s)

end Sys2Proof.Machine
end

