-- ==== Sys2Proof/Machine/ConfigOps.lean ====
section
/-! DEFINITION. The twelve configuration operations, each its own instance of GET_SEQ or SET_SEQ (R170 to R185). -/

namespace Sys2Proof.Machine

/-- GET_PHASE: get phase delay (R172). -/
def execGetPhase (s : State) : Host.Outcome State Fault Refusal := dispatch (.get .phase) (runGet .phase) s

/-- SET_PHASE: set phase delay (R173). -/
def execSetPhase (v : Half) (s : State) : Host.Outcome State Fault Refusal :=
  dispatch (.set .phase) (runSet .phase v) s

/-- GET_GPIO: get GPIO mode (R174). -/
def execGetGpio (s : State) : Host.Outcome State Fault Refusal := dispatch (.get .gpio) (runGet .gpio) s

/-- SET_GPIO: set GPIO mode (R175). -/
def execSetGpio (v : Half) (s : State) : Host.Outcome State Fault Refusal :=
  dispatch (.set .gpio) (runSet .gpio v) s

/-- GET_VSRC: get video-output source (R176). -/
def execGetVsrc (s : State) : Host.Outcome State Fault Refusal := dispatch (.get .vsrc) (runGet .vsrc) s

/-- SET_VSRC: set video-output source (R177). -/
def execSetVsrc (v : Half) (s : State) : Host.Outcome State Fault Refusal :=
  dispatch (.set .vsrc) (runSet .vsrc v) s

/-- GET_VCONST: get video-output constant (R178). -/
def execGetVconst (s : State) : Host.Outcome State Fault Refusal := dispatch (.get .vconst) (runGet .vconst) s

/-- SET_VCONST: set video-output constant (R179). -/
def execSetVconst (v : Half) (s : State) : Host.Outcome State Fault Refusal :=
  dispatch (.set .vconst) (runSet .vconst v) s

/-- GET_TLM: get telemetry mode (R180). -/
def execGetTlm (s : State) : Host.Outcome State Fault Refusal := dispatch (.get .tlm) (runGet .tlm) s

/-- SET_TLM: set telemetry mode (R181). -/
def execSetTlm (v : Half) (s : State) : Host.Outcome State Fault Refusal :=
  dispatch (.set .tlm) (runSet .tlm v) s

/-- GET_AGC: get AGC enable (R182). -/
def execGetAgc (s : State) : Host.Outcome State Fault Refusal := dispatch (.get .agc) (runGet .agc) s

/-- SET_AGC: set AGC enable (R183). -/
def execSetAgc (v : Half) (s : State) : Host.Outcome State Fault Refusal :=
  dispatch (.set .agc) (runSet .agc v) s

end Sys2Proof.Machine
end

