-- ==== Sys2Proof/Machine/Control.lean ====
section
/-! DEFINITION. The control-channel operations WRREG, RDREG, EXEC, GBOOT, GIFST, GSTAT (R140 to R152). -/

namespace Sys2Proof.Machine

/-- WRREG (R140). -/
def execWrreg (reg : Reg) (payload : List Byte) (s : State) : Host.Outcome State Fault Refusal :=
  dispatch .wrreg (fun t => runWrReg (latchPayload payload { t with regR := reg.selector })) s

/-- RDREG (R142). -/
def execRdreg (reg : Reg) (s : State) : Host.Outcome State Fault Refusal :=
  dispatch .rdreg (fun t => runRdReg { t with regR := reg.selector }) s

/-- EXEC (R144). -/
def execExecute (id len : Half) (payload : List Byte) (s : State) : Host.Outcome State Fault Refusal :=
  dispatch .execute (fun t => runExec (latchPayload payload (latchCommand ⟨id, len⟩ t))) s

/-- GBOOT (R150): true iff STATUS bit 1 is set. -/
def execGboot (s : State) : Host.Outcome State Fault Refusal := dispatch .gboot runRdStatus s

/-- GIFST (R151): true iff STATUS bit 0 is clear. -/
def execGifst (s : State) : Host.Outcome State Fault Refusal := dispatch .gifst runRdStatus s

/-- GSTAT (R152): the class and the raw byte of STATUS bits 15:8. -/
def execGstat (s : State) : Host.Outcome State Fault Refusal := dispatch .gstat runRdStatus s

end Sys2Proof.Machine
end

