-- ==== Sys2Proof/Machine/Trigger.lean ====
section
/-! DEFINITION. The capture trigger: ARMTRIG (R254) and WAITTRIG (R257). -/

namespace Sys2Proof.Machine

/-- ARMTRIG (R254): arm; a wake-up already pending stays pending. -/
def execArmtrig (s : State) : Host.Outcome State Fault Refusal :=
  dispatch .armtrig (fun t => respond .done { t with trigArmed := true }) s

/-- WAITTRIG from its wait on: hold while nothing is pending, else consume the wake-up and respond
(R257). -/
def runWait (s : State) : State :=
  if s.trigPending then respond .done { s with trigPending := false } else s

/-- WAITTRIG (R257): accepted, then held in flight until an edge has been latched. -/
def execWaittrig (s : State) : Host.Outcome State Fault Refusal := dispatch .waittrig runWait s

end Sys2Proof.Machine
end

