-- ==== Sys2Proof/Machine/Dispatch.lean ====
section
/-! DEFINITION. One arm per operation of the opcode table, each a call of its meaning. -/

namespace Sys2Proof.Machine

def exec (i : Instr) (s : State) : Host.Outcome State Fault Refusal :=
  match i with
  | .wrreg reg payload => Sys2Proof.Machine.execWrreg reg payload s
  | .rdreg reg => Sys2Proof.Machine.execRdreg reg s
  | .execute id len payload => Sys2Proof.Machine.execExecute id len payload s
  | .gboot => Sys2Proof.Machine.execGboot s
  | .gifst => Sys2Proof.Machine.execGifst s
  | .gstat => Sys2Proof.Machine.execGstat s
  | .getPhase => Sys2Proof.Machine.execGetPhase s
  | .setPhase v => Sys2Proof.Machine.execSetPhase v s
  | .getGpio => Sys2Proof.Machine.execGetGpio s
  | .setGpio v => Sys2Proof.Machine.execSetGpio v s
  | .getVsrc => Sys2Proof.Machine.execGetVsrc s
  | .setVsrc v => Sys2Proof.Machine.execSetVsrc v s
  | .getVconst => Sys2Proof.Machine.execGetVconst s
  | .setVconst v => Sys2Proof.Machine.execSetVconst v s
  | .getTlm => Sys2Proof.Machine.execGetTlm s
  | .setTlm v => Sys2Proof.Machine.execSetTlm v s
  | .getAgc => Sys2Proof.Machine.execGetAgc s
  | .setAgc v => Sys2Proof.Machine.execSetAgc v s
  | .armtrig => Sys2Proof.Machine.execArmtrig s
  | .waittrig => Sys2Proof.Machine.execWaittrig s
  | .capture => Sys2Proof.Machine.execCapture s
  | .rdframe k => Sys2Proof.Machine.execRdframe k s
  | .pval packet => Sys2Proof.Machine.execPval packet s

end Sys2Proof.Machine
end

