-- ==== Sys2Proof/Machine/Fetch.lean ====
section
/-! DEFINITION. Where the next operation comes from: whose turn it is (R21, R73), taking a request from a port (R101, R252, R253), and going on with the operation in flight. -/

namespace Sys2Proof.Machine

/-- Go on with the operation in flight, as far as its waits have been answered (R78, R257). -/
def resume (s : State) : State :=
  match s.chanSel with
  | .ctrl => ccsRun s
  | .data => faRun s
  | .none => if s.opR = Opcode.waittrig.byte then runWait s else s

/-- What a turn leads to: a next state without a new operation, or an operation to execute. -/
inductive Move where
  | stay (s : State)
  | run (i : Instr) (s : State)
deriving DecidableEq, Repr

/-- The OP agent's turn. In flight: go on. Idle: take the request at the OP port, once its tail is all
there (log entry 8); an illegal one is answered and dropped with its tail (R98, R252). -/
def opTurn (s : State) : Move :=
  if s.opBusy then .stay (resume s)
  else match s.opWords with
    | [] => .stay s
    | w :: rest =>
      if s.opPay.length < tailLength .op w then .stay s
      else
        let t := { s with opWords := rest, opPay := s.opPay.drop (tailLength .op w) }
        match decode s.cfg ⟨.op, w, s.opPay.take (tailLength .op w)⟩ with
        | .ok i => .run i t
        | .error _ => .stay (refuseOp t)

/-- A request on FRAME port `k`, served by its reader whatever the OP agent is doing (R253). `s` is the
state with the turn still to come, `t` with the turn taken; the turn waits while the lock is held
(log entry 15). A port that does not exist carries nothing (log entry 17). -/
def frameTurn (k : Nat) (w : Word64) (s t : State) : Move :=
  if t.cfg.nReaders ≤ k then .stay t
  else match decode t.cfg ⟨.frame k, w, []⟩ with
    | .ok i => if t.fbLock then .stay s else .run i t
    | .error _ => .stay (refuseFrame k t)

/-- The next move: the first turn of the schedule, the OP agent's when none is left (log entry 7). -/
def nextMove (s : State) : Move :=
  match s.sched with
  | [] => opTurn s
  | .op :: rest => opTurn { s with sched := rest }
  | .frame k w :: rest => frameTurn k w s { s with sched := rest }
  | .edge :: rest => .stay (edge { s with sched := rest })
  | .reset :: rest => .stay (resetCore { s with sched := rest })

/-- Offer a request so that the very next step takes it: at the front of its port, its turn first, the
OP agent idle for a request on the OP port, the lock free for one on a FRAME port (log entry 20). -/
def offer (r : Request) (s : State) : State :=
  match r.port with
  | .op =>
    { s with
      sched := .op :: s.sched, opWords := r.word :: s.opWords, opPay := r.tail ++ s.opPay
      opBusy := false, chanSel := .none, ccsState := .idle, faState := .idle }
  | .frame k => { s with sched := .frame k r.word :: s.sched, fbLock := false }

end Sys2Proof.Machine
end

