-- ==== Sys2Proof/Machine/Step.lean ====
section
/-! DEFINITION. One step of the machine: one turn of one agent. -/

namespace Sys2Proof.Machine

/-- One step: the agent whose turn it is moves; when its move is to take a legal request, the step is
that operation's meaning. A hang is a state that steps to itself (R284). -/
def step (s : State) : Host.Outcome State Fault Refusal :=
  match nextMove s with
  | .stay t => .next t
  | .run i t => exec i t

/-- `s` with the request of a word of the opcode table offered where the next step takes it. -/
def State.withFetchWord (s : State) (nbits w : Nat) : State := offer (tableRequest nbits w) s

end Sys2Proof.Machine
end

