-- ==== Sys2Proof/Safety.lean ====
section
/-! DEFINITION. What a good state and a good run are, in the words the claims use. -/

namespace Sys2Proof.Machine

/-- The OP agent is idle (R23, R50, R282). -/
abbrev State.Idle (s : State) : Prop :=
  s.opBusy = false ∧ s.chanSel = .none ∧ s.ccsState = .idle ∧ s.faState = .idle

/-- The places where an operation in flight can be found between two steps: the state registers in
which it waits for a transport answer or for the interval timer (R158, R230, R297), or WAITTRIG's wait
(R257), each with the channel the multiplexer granted it (R251). -/
def State.holds (s : State) : Bool :=
  match Opcode.ofByte? s.opR with
  | some .wrreg => s.chanSel == .ctrl && s.faState == .idle && s.ccsState == .wrReg
  | some .rdreg => s.chanSel == .ctrl && s.faState == .idle && s.ccsState == .rdReg
  | some .execute =>
    s.chanSel == .ctrl && s.faState == .idle
      && [CcsState.wrData, .wrLen, .wrCmd, .poll, .pollWait].contains s.ccsState
  | some (.set _) =>
    s.chanSel == .ctrl && s.faState == .idle
      && [CcsState.wrData, .wrLen, .wrCmd, .poll, .pollWait, .rdStatus].contains s.ccsState
  | some (.get _) =>
    s.chanSel == .ctrl && s.faState == .idle
      && [CcsState.wrLen, .wrCmd, .poll, .pollWait, .rdData, .rdStatus].contains s.ccsState
  | some .gboot => s.chanSel == .ctrl && s.faState == .idle && s.ccsState == .rdStatus
  | some .gifst => s.chanSel == .ctrl && s.faState == .idle && s.ccsState == .rdStatus
  | some .gstat => s.chanSel == .ctrl && s.faState == .idle && s.ccsState == .rdStatus
  | some .capture =>
    s.chanSel == .data && s.ccsState == .idle && [FaState.sync, .bulk].contains s.faState
  | some .waittrig => s.chanSel == .none && s.ccsState == .idle && s.faState == .idle
  | some .armtrig => false
  | some .rdframe => false
  | some .pval => false
  | none => false

/-- A frame is valid: the first packet's identifier is 0 and all 60 packets are accepted (R226). -/
abbrev FrameValid (m : Memory) : Prop :=
  lineId (m.packet 0) = 0#16 ∧ ∀ i < packetsPerFrame, validate (m.packet i) = .accept

/-- Both buffers are in canonical form. -/
abbrev State.BuffersWf (s : State) : Prop := s.asmBuf.wf ∧ s.fb.wf

/-- The state registers are consistent: idle, or an operation in flight where it can be found; the
lock is free between steps (R72); in `F_BULK` the packet already stored starts a frame (R222). -/
abbrev State.Consistent (s : State) : Prop :=
  s.fbLock = false ∧ (s.Idle ∨ (s.opBusy = true ∧ s.holds = true))
    ∧ (s.faState = .bulk → lineId (s.asmBuf.packet 0) = 0#16)

/-- The invariant of the machine: consistent state registers, canonical buffers, and R38: a valid
FrameBuffer holds a valid frame. -/
abbrev State.Inv (s : State) : Prop :=
  s.Consistent ∧ s.BuffersWf ∧ (s.fbValid = true → FrameValid s.fb)

/-- A transaction on the control bus, or a wait between two polls. -/
def Event.isCtrl : Event → Bool
  | .ctrlWrite _ _ _ => true
  | .ctrlWriteRead _ _ _ _ => true
  | .sleep _ => true
  | _ => false

/-- A read on the data bus. -/
def Event.isData : Event → Bool
  | .dataRead _ _ => true
  | _ => false

/-- Bus activity of either channel. -/
def Event.isBus (e : Event) : Bool := e.isCtrl || e.isData

/-- An event a channel grant admits: a response or LOG record always, a transaction only on the channel
granted (R251). -/
def ChanSel.admits : ChanSel → Event → Bool
  | .ctrl, e => !e.isData
  | .data, e => !e.isCtrl
  | .none, e => !e.isBus

/-- WAITTRIG held with the trigger disarmed and nothing pending: the hang of R284 (c). -/
abbrev State.DeadWait (s : State) : Prop :=
  s.opBusy = true ∧ s.chanSel = .none ∧ s.opR = Opcode.waittrig.byte
    ∧ s.trigArmed = false ∧ s.trigPending = false

end Sys2Proof.Machine
end

