-- ==== Sys2Proof/Certificates/Slice0/Obligations.lean ====
section
/-! DEFINITION. The statements for the provers, each from the numbered rules of the spec, and the words they are stated in. -/

namespace Sys2Proof.Claims

open Sys2Proof.Machine

/-- The next move is the OP agent's, and `l` is the schedule after it. -/
abbrev OpTurnNext (s : State) (l : List Turn) : Prop := s.sched = .op :: l ∨ (s.sched = [] ∧ l = [])

/-- The opcodes of format N (R96). -/
def opsN : List Byte :=
  [0x04#8, 0x05#8, 0x06#8, 0x10#8, 0x12#8, 0x14#8, 0x16#8, 0x18#8, 0x1A#8, 0x30#8, 0x31#8, 0x40#8,
    0x41#8]

/-- The opcodes of format V (R96). -/
def opsV : List Byte := [0x11#8, 0x13#8, 0x15#8, 0x17#8, 0x19#8, 0x1B#8]

/-- The 23 opcodes (R96). -/
def ops : List Byte := opsN ++ opsV ++ [0x01#8, 0x02#8, 0x03#8, 0x42#8]

/-- The illegal requests, clauses (a) to (f) of R98 word for word. -/
def Illegal (c : Cfg) (p : Port) (w : Word64) : Prop :=
  fieldOp w ∉ ops
    ∨ (fieldZ0 w ≠ 0#8 ∨ (fieldA w ≠ 0#8 ∧ fieldOp w ≠ 0x02#8 ∧ fieldOp w ≠ 0x01#8)
      ∨ (fieldPlen w ≠ 0#8 ∧ fieldOp w ≠ 0x01#8 ∧ fieldOp w ≠ 0x03#8 ∧ fieldOp w ≠ 0x42#8)
      ∨ (fieldV0 w ≠ 0#16 ∧ fieldOp w ∉ opsV ∧ fieldOp w ≠ 0x03#8)
      ∨ (fieldV1 w ≠ 0#16 ∧ fieldOp w ≠ 0x03#8))
    ∨ ((fieldOp w = 0x02#8 ∨ fieldOp w = 0x01#8) ∧ 4 < (fieldA w).toNat)
    ∨ ((fieldOp w = 0x01#8 ∨ fieldOp w = 0x03#8) ∧ c.maxPayloadBytes < (fieldPlen w).toNat)
    ∨ (fieldOp w = 0x42#8 ∧ (fieldPlen w).toNat ≠ 164)
    ∨ ((∃ k, p = .frame k) ∧ fieldOp w ≠ 0x41#8) ∨ (p = .op ∧ fieldOp w = 0x41#8)

/-- The fields `RC`, `SC`, `SCC`, `VAL`, `AUX` of a response word (R92). -/
def responseFields (w : Word64) : Byte × Byte × BitVec 2 × Half × Byte :=
  (w.extractLsb' 0 8, w.extractLsb' 8 8, w.extractLsb' 16 2, w.extractLsb' 32 16, w.extractLsb' 48 8)

/-- Bits 31:18 and 63:56 of a response word are zero (R92). -/
def ReservedZero (w : Word64) : Prop := w.extractLsb' 18 14 = 0#14 ∧ w.extractLsb' 56 8 = 0#8

/-- A packet with bit `j` of byte `k` flipped. -/
def flipBit (p : List Byte) (k j : Nat) : List Byte := p.set k (p.getD k 0#8 ^^^ (1#8 <<< j))

/-- A packet with a 16-bit value in its checksum field, bytes 2 and 3 (R63). -/
def withChecksum (p : List Byte) (v : Half) : List Byte :=
  (p.set 2 ((toBe16 v).getD 0 0#8)).set 3 ((toBe16 v).getD 1 0#8)

/-- One answered write of a register (R94). -/
def wrote (c : Cfg) (r : Reg) (payload : List Byte) (ok : Bool) : Event :=
  .ctrlWrite c.devAddr (addrBytes c r ++ payload) ok

/-- One answered read of a register (R94). -/
def didRead (c : Cfg) (r : Reg) (b : Byte × Byte) : Event :=
  .ctrlWriteRead c.devAddr (addrBytes c r) 2 (some [b.1, b.2])

/-- One failed read of a register. -/
def readFailed (c : Cfg) (r : Reg) : Event := .ctrlWriteRead c.devAddr (addrBytes c r) 2 none

/-- The answers that carry these pairs of bytes. -/
def answers (l : List (Byte × Byte)) : List ReadAnswer := l.map fun b => .ok b.1 b.2

/-- A STATUS value with bit 0 set (R31). -/
abbrev Busy (b : Byte × Byte) : Prop := busyBit (be16 b.1 b.2) = true

/-- A STATUS value with bit 0 clear (R31). -/
abbrev Ready (b : Byte × Byte) : Prop := busyBit (be16 b.1 b.2) = false

/-- What the poll loop adds to the trace for busy reads, each followed by a wait (R147); newest first. -/
def polled (c : Cfg) : List (Byte × Byte) → List Event → List Event
  | [], tr => tr
  | b :: rest, tr => polled c rest (.sleep c.pollInterval :: didRead c .status b :: tr)

/-- `status_r` after some reads: the last value read, or what it held (R24). -/
def lastStatus (st : Half) : List (Byte × Byte) → Half
  | [] => st
  | b :: rest => lastStatus (be16 b.1 b.2) rest

/-- `n` busy STATUS reads stay below the bound `MAX_POLLS` (R148). -/
abbrev PollsAllowed (c : Cfg) (n : Nat) : Prop := ∀ m, c.maxPolls = some m → n < m

/-- The write answers an empty or a non-empty payload needs: none, or one (R145). -/
def dataOk (payload : List Byte) : List WriteAnswer := if payload = [] then [] else [.ok]

/-- The trace after the DATA0 step of EXEC (R145). -/
def dataDone (c : Cfg) (payload : List Byte) (tr : List Event) : List Event :=
  if payload = [] then tr else wrote c .data0 payload true :: tr

/-- The trace after the three writes of EXEC (R146). -/
def commandSent (c : Cfg) (id len : Half) (payload : List Byte) (tr : List Event) : List Event :=
  wrote c .command (toBe16 id) true :: wrote c .length (toBe16 len) true :: dataDone c payload tr

/-- The state with its operation ended: idle, the response newest in the trace (R251, R282). -/
def ended (s : State) (r : Result) (tr : List Event) : State :=
  { s with
    opBusy := false, chanSel := .none, ccsState := .idle, faState := .idle
    trace := .opResponse r.word :: tr }

/-- The request opcode of GET_x and SET_x (R96): GET even, SET odd. -/
def getByte : Param → Byte
  | .phase => 0x10#8
  | .gpio => 0x12#8
  | .vsrc => 0x14#8
  | .vconst => 0x16#8
  | .tlm => 0x18#8
  | .agc => 0x1A#8

/-- The latches of SET_x (R24, R170); `pay_r` and `pay_len_r` by log entry 13. -/
def setLatched (s : State) (p : Param) (v : Half) : State :=
  { s with
    opR := getByte p + 1#8, valR := v
    cmdIdR := (s.cfg.cmdTable.of p).set.id, cmdLenR := (s.cfg.cmdTable.of p).set.len
    payR := toBe16 v, payLenR := 2#8 }

/-- The latches of GET_x (R24, R170); `pay_r` and `pay_len_r` are left as they are by log entry 26. -/
def getLatched (s : State) (p : Param) : State :=
  { s with
    opR := getByte p
    cmdIdR := (s.cfg.cmdTable.of p).get.id, cmdLenR := (s.cfg.cmdTable.of p).get.len }

/-- The trace after the three writes of SET_x (R170). -/
def setSent (s : State) (p : Param) (v : Half) : List Event :=
  commandSent s.cfg (s.cfg.cmdTable.of p).set.id (s.cfg.cmdTable.of p).set.len (toBe16 v) s.trace

/-- The trace after the two writes of GET_x (R170). -/
def getSent (s : State) (p : Param) : List Event :=
  commandSent s.cfg (s.cfg.cmdTable.of p).get.id (s.cfg.cmdTable.of p).get.len [] s.trace

/-- The latches of EXEC (R24). -/
def execLatched (s : State) (id len : Half) (payload : List Byte) : State :=
  { s with
    opR := 0x03#8, cmdIdR := id, cmdLenR := len
    payR := payload, payLenR := BitVec.ofNat 8 payload.length }

/-- The class of a raw status byte (R120, R125). -/
def classOf (c : Cfg) (raw : Byte) : StatusClass := classify c.documented (sext8 raw)

/-- GET_PHASE, GET_GPIO, GET_VSRC, GET_VCONST, GET_TLM, GET_AGC. -/
def getOp : Param → Instr
  | .phase => .getPhase
  | .gpio => .getGpio
  | .vsrc => .getVsrc
  | .vconst => .getVconst
  | .tlm => .getTlm
  | .agc => .getAgc

/-- SET_PHASE, SET_GPIO, SET_VSRC, SET_VCONST, SET_TLM, SET_AGC with their operand. -/
def setOp (v : Half) : Param → Instr
  | .phase => .setPhase v
  | .gpio => .setGpio v
  | .vsrc => .setVsrc v
  | .vconst => .setVconst v
  | .tlm => .setTlm v
  | .agc => .setAgc v

/-- One attempt of the synchronisation step that starts no frame: a failed read that consumed some
bytes, or a block that was read and dropped (R221). -/
inductive Attempt where
  | failed (consumed : List Byte)
  | skipped (block : List Byte)
deriving DecidableEq, Repr

/-- The stream bytes an attempt consumes. -/
def Attempt.bytes : Attempt → List Byte
  | .failed consumed => consumed
  | .skipped block => block

/-- The data bus's answer in an attempt. -/
def Attempt.answer : Attempt → DataAnswer
  | .failed consumed => .err consumed.length
  | .skipped _ => .ok

/-- A skipped block has 164 bytes and an identifier other than 0 (R222). -/
def Attempt.valid : Attempt → Bool
  | .failed _ => true
  | .skipped block => decide (block.length = 164) && decide (lineId block ≠ 0#16)

/-- What an attempt adds to the trace. -/
def Attempt.event : Attempt → Event
  | .failed _ => .dataRead 164 false
  | .skipped _ => .dataRead 164 true

/-- The trace after some attempts, newest first. -/
def attempted (as : List Attempt) (tr : List Event) : List Event :=
  (as.map Attempt.event).reverse ++ tr

/-- `n` attempts stay below the bound `MAX_SYNC_ATTEMPTS` (R223). -/
abbrev AttemptsAllowed (c : Cfg) (n : Nat) : Prop := ∀ m, c.maxSyncAttempts = some m → n < m

/-- An idle core that finds, after the attempts `as`, a block `first` with identifier 0; then come the
answers `ds` and the bytes `bs` (R221, R222). -/
abbrev FindsLineZero (s : State) (as : List Attempt) (first : List Byte) (ds : List DataAnswer)
    (bs : List Byte) : Prop :=
  s.opBusy = false ∧ s.dbRsp = as.map Attempt.answer ++ .ok :: ds
    ∧ s.stream = as.flatMap Attempt.bytes ++ first ++ bs
    ∧ (∀ a ∈ as, a.valid = true) ∧ AttemptsAllowed s.cfg as.length
    ∧ first.length = 164 ∧ lineId first = 0#16

/-- Packet `i` of a frame held as a list of bytes (R64). -/
def packetOf (frame : List Byte) (i : Nat) : List Byte := (frame.drop (164 * i)).take 164

/-- Answers that come in later: appended to what is already there; and `n` more expiries of the
interval timer. -/
def feed (ws : List WriteAnswer) (rs : List ReadAnswer) (ds : List DataAnswer) (bs : List Byte)
    (n : Nat) (s : State) : State :=
  { s with
    cbWriteRsp := s.cbWriteRsp ++ ws, cbReadRsp := s.cbReadRsp ++ rs
    dbRsp := s.dbRsp ++ ds, stream := s.stream ++ bs, timerRsp := s.timerRsp + n }

/-- The result classes an operation may end with on the OP port (R279). -/
def allowedClasses (c : Cfg) : Opcode → List Byte
  | .wrreg => [0x00#8, 0x01#8]
  | .rdreg => [0x00#8, 0x01#8]
  | .gboot => [0x00#8, 0x01#8]
  | .gifst => [0x00#8, 0x01#8]
  | .gstat => [0x00#8, 0x01#8]
  | .execute => [0x00#8, 0x01#8] ++ (if c.maxPolls = none then [] else [0x03#8])
  | .get _ => [0x00#8, 0x01#8] ++ (if c.maxPolls = none then [] else [0x03#8])
  | .set _ => [0x00#8, 0x01#8] ++ (if c.maxPolls = none then [] else [0x03#8])
  | .capture => [0x00#8, 0x02#8, 0x05#8] ++ (if c.maxSyncAttempts = none then [] else [0x04#8])
  | .rdframe => []
  | .pval => [0x00#8]
  | .armtrig => [0x00#8]
  | .waittrig => [0x00#8]

/-- Both buffers read as before at every offset. -/
abbrev SameBytes (s t : State) : Prop :=
  ∀ a, t.fb.read a = s.fb.read a ∧ t.asmBuf.read a = s.asmBuf.read a

/-- The state the ports and the other agents own is as before: configuration, lock, trigger latch,
schedule, and the requests waiting at the OP port. -/
abbrev SameSurroundings (s t : State) : Prop :=
  t.cfg = s.cfg ∧ t.fbLock = s.fbLock ∧ t.sched = s.sched ∧ t.opWords = s.opWords
    ∧ t.opPay = s.opPay

/-- The bus activity of a trace, newest first. -/
def busOf (tr : List Event) : List Event := tr.filter Event.isBus

end Sys2Proof.Claims

open Sys2Proof Sys2Proof.Machine Sys2Proof.Claims

/-! ### Requests, decoding, dispatch -/

/-- Every well-formed operation decodes from the request it is encoded in (R90, R91, R93, R95, R96). -/
def Obligations.DecodeEncodeRoundTrip : Prop :=
  ∀ (c : Cfg) (i : Instr), c.maxPayloadBytes ≤ 255 → i.wf c = true → decode c (encode i) = .ok i

/-- A request that decodes is the encoding of what it decodes to, which is well-formed: no accepted
request carries a bit the operation does not have (R90, R91, R98, R101). -/
def Obligations.DecodedRequestIsItsEncoding : Prop :=
  ∀ (c : Cfg) (r : Request) (i : Instr), decode c r = .ok i → encode i = r ∧ i.wf c = true

/-- The worked request and response words of R104, the requests also read by the decoder under the
reset configuration. R104 is an inference the spec marks as its own, and the configuration is the
model's choice (log entry 2). -/
def Obligations.WorkedRequestAndResponseWords : Prop :=
  encode (.setPhase (u16 (-3))) = ⟨.op, 0x0000FFFD00000011#64, []⟩
    ∧ encode (.rdreg .status) = ⟨.op, 0x0000000000000102#64, []⟩
    ∧ encode (.wrreg .data0 [0xFF#8, 0xFD#8]) = ⟨.op, 0x0000000000020401#64, [0xFF#8, 0xFD#8]⟩
    ∧ encode (.execute 0x1234#16 0x0002#16 [0xAB#8, 0xCD#8])
      = ⟨.op, 0x0002123400020003#64, [0xAB#8, 0xCD#8]⟩
    ∧ encode .gboot = ⟨.op, 0x0000000000000004#64, []⟩
    ∧ encode .capture = ⟨.op, 0x0000000000000040#64, []⟩
    ∧ (∀ p : List Byte, p.length = 164 → encode (.pval p) = ⟨.op, 0x0000000000A40042#64, p⟩)
    ∧ (∀ i ∈ [Instr.setPhase 0xFFFD#16, .rdreg .status, .wrreg .data0 [0xFF#8, 0xFD#8],
        .execute 0x1234#16 0x0002#16 [0xAB#8, 0xCD#8], .gboot, .capture],
        decode Cfg.profile (encode i) = .ok i)
    ∧ (Result.truth true).word = 0x0000000100000000#64
    ∧ (Result.status (statusByte 0x0002#16)
        (classOf Cfg.profile (statusByte 0x0002#16))).word = 0x0000000000010000#64
    ∧ (Result.noUpdate .marked 37).word = 0x0001002500000005#64

/-- On a port that exists and with its tail complete, the decoder rejects exactly the illegal requests
of R98. -/
def Obligations.DecoderRejectsExactlyIllegalRequests : Prop :=
  ∀ (c : Cfg) (p : Port) (w : Word64) (tail : List Byte), portExists c p = true →
    tail.length = tailLength p w → ((∃ e, decode c ⟨p, w, tail⟩ = .error e) ↔ Illegal c p w)

/-- An illegal request gets `ILLEGAL_OP` and changes nothing else: on the OP port its tail is consumed
and dropped with it, on a FRAME port the response goes out on that port (R98, R278). How much tail that
is follows R101 and the model's reading of it (`tailLength`, DEDUCED, log entry 18): `PLEN` bytes in
formats W, X and P, none for any other word and none on a FRAME port. -/
def Obligations.IllegalRequestOnlyGetsItsResponse : Prop :=
  (∀ (s : State) (l : List Turn) (w : Word64) (ws : List Word64), s.opBusy = false →
    OpTurnNext s l → s.opWords = w :: ws → tailLength .op w ≤ s.opPay.length →
    Illegal s.cfg .op w →
    step s = .next { s with
      sched := l, opWords := ws, opPay := s.opPay.drop (tailLength .op w)
      trace := .opResponse 0x0000000000000007#64 :: s.trace })
  ∧ (∀ (s : State) (l : List Turn) (k : Nat) (w : Word64), s.sched = .frame k w :: l →
    k < s.cfg.nReaders → Illegal s.cfg (.frame k) w →
    step s = .next { s with
      sched := l, trace := .frameResponse k 0x0000000000000007#64 [] :: s.trace })

/-- A step runs the decoded operation. On the OP port, for an idle OP agent, `step` is `exec` of the
request's operation at the state with its turn, word and tail taken (R252). On FRAME port `k` it is
`exec` at the state with the turn taken, whatever `op_busy` and `chan_sel` are (R253). -/
def Obligations.StepRunsTheDecodedRequest : Prop :=
  (∀ (s : State) (l : List Turn) (w : Word64) (ws : List Word64) (i : Instr), s.opBusy = false →
    OpTurnNext s l → s.opWords = w :: ws → tailLength .op w ≤ s.opPay.length →
    decode s.cfg ⟨.op, w, s.opPay.take (tailLength .op w)⟩ = .ok i →
    step s = exec i { s with
      sched := l, opWords := ws, opPay := s.opPay.drop (tailLength .op w) })
  ∧ (∀ (s : State) (l : List Turn) (k : Nat) (w : Word64) (i : Instr), s.sched = .frame k w :: l →
    k < s.cfg.nReaders → s.fbLock = false → decode s.cfg ⟨.frame k, w, []⟩ = .ok i →
    step s = exec i { s with sched := l })

/-- A request offered while `op_busy` is 1 is not accepted: the OP agent's turn goes on with the
operation in flight and leaves the request at the port, and no operation of the OP port starts. An
idle OP agent with no complete request at its port changes nothing but the schedule (R252, R77). Two
clauses are the model's choice: that `exec` of such an operation answers the same state (log entry 16),
and that a word waits for its whole tail (log entry 8). -/
def Obligations.RequestWaitsAtThePort : Prop :=
  (∀ (s : State) (l : List Turn), s.opBusy = true → OpTurnNext s l →
    ∃ t, step s = .next t ∧ t = resume { s with sched := l } ∧ t.opWords = s.opWords
      ∧ t.opPay = s.opPay ∧ t.sched = l)
  ∧ (∀ (s : State) (i : Instr), s.opBusy = true → (∀ k, i ≠ .rdframe k) → exec i s = .next s)
  ∧ (∀ (s : State) (l : List Turn), s.opBusy = false → OpTurnNext s l →
    (s.opWords = [] ∨ ∃ w ws, s.opWords = w :: ws ∧ s.opPay.length < tailLength .op w) →
    step s = .next { s with sched := l })

/-- `Edge()`: an armed trigger becomes pending and disarmed, an edge that finds it disarmed changes
nothing (R256). -/
def Obligations.EdgeLatchesOnlyWhenArmed : Prop :=
  ∀ (s : State) (l : List Turn), s.sched = .edge :: l →
    (s.trigArmed = true →
      step s = .next { s with sched := l, trigPending := true, trigArmed := false })
    ∧ (s.trigArmed = false → step s = .next { s with sched := l })

/-- The response word of every result: its five fields as R100 and R270 give them, the reserved bits
zero, and for an error class every other field zero (R92). -/
def Obligations.ResponseWordOfEveryResult : Prop :=
  (∀ r : Result, ReservedZero r.word)
    ∧ responseFields Result.done.word = (0x00#8, 0#8, 0#2, 0#16, 0#8)
    ∧ (∀ v, responseFields (Result.value v).word = (0x00#8, 0#8, 0#2, v, 0#8))
    ∧ (∀ b, responseFields (Result.truth b).word
        = (0x00#8, 0#8, 0#2, (if b = true then 1#16 else 0#16), 0#8))
    ∧ (∀ raw, responseFields (Result.status raw .ok).word = (0x00#8, raw, 1#2, 0#16, 0#8))
    ∧ (∀ raw c, responseFields (Result.status raw (.named c)).word = (0x00#8, raw, 2#2, 0#16, 0#8))
    ∧ (∀ raw, responseFields (Result.status raw .unknown).word = (0x00#8, raw, 3#2, 0#16, 0#8))
    ∧ (∀ v raw, responseFields (Result.valueStatus v raw .ok).word = (0x00#8, raw, 1#2, v, 0#8))
    ∧ (∀ v raw c, responseFields (Result.valueStatus v raw (.named c)).word
        = (0x00#8, raw, 2#2, v, 0#8))
    ∧ (∀ v raw, responseFields (Result.valueStatus v raw .unknown).word
        = (0x00#8, raw, 3#2, v, 0#8))
    ∧ responseFields (Result.verdict .accept).word = (0x00#8, 0#8, 0#2, 0#16, 0#8)
    ∧ responseFields (Result.verdict (.discard .marked)).word = (0x00#8, 0#8, 0#2, 0#16, 1#8)
    ∧ responseFields (Result.verdict (.discard .checksum)).word = (0x00#8, 0#8, 0#2, 0#16, 2#8)
    ∧ responseFields Result.updated.word = (0x00#8, 0#8, 0#2, 0#16, 0#8)
    ∧ (∀ i, responseFields (Result.noUpdate .marked i).word
        = (0x05#8, 0#8, 0#2, BitVec.ofNat 16 i, 1#8))
    ∧ (∀ i, responseFields (Result.noUpdate .checksum i).word
        = (0x05#8, 0#8, 0#2, BitVec.ofNat 16 i, 2#8))
    ∧ responseFields Result.frame.word = (0x00#8, 0#8, 0#2, 0#16, 0#8)
    ∧ responseFields Result.empty.word = (0x06#8, 0#8, 0#2, 0#16, 0#8)
    ∧ responseFields (Result.error .ctrlBusError).word = (0x01#8, 0#8, 0#2, 0#16, 0#8)
    ∧ responseFields (Result.error .dataBusError).word = (0x02#8, 0#8, 0#2, 0#16, 0#8)
    ∧ responseFields (Result.error .deviceUnresponsive).word = (0x03#8, 0#8, 0#2, 0#16, 0#8)
    ∧ responseFields (Result.error .syncExhausted).word = (0x04#8, 0#8, 0#2, 0#16, 0#8)
    ∧ responseFields (Result.error .illegalOp).word = (0x07#8, 0#8, 0#2, 0#16, 0#8)

/-! ### Pure functions -/

/-- Every Command survives its wire format: `be16` of the two byte pairs gives back length and id
(R130, an inference the spec marks as its own from R11 and R94). -/
def Obligations.CommandSurvivesItsWireFormat : Prop :=
  (∀ c : Command, ∃ l0 l1 i0 i1, toBe16 c.len = [l0, l1] ∧ toBe16 c.id = [i0, i1]
    ∧ be16 l0 l1 = c.len ∧ be16 i0 i1 = c.id)
  ∧ (∀ b0 b1 : Byte, toBe16 (be16 b0 b1) = [b0, b1])

/-- The whole status taxonomy: `classify(c) = Ok` iff `c = 0`, a documented code is `Named` with itself,
and every other code, positive or negative, is `Unknown` (R120; R122 and R123 are inferences the spec
marks as its own from it). The code an operation classifies is the two's-complement reading of the raw
status byte (R11, R125). -/
def Obligations.ClassifyIsOkExactlyAtZero : Prop :=
  (∀ c : Cfg, c.WF →
    (∀ x : Int, classify c.documented x = .ok ↔ x = 0)
    ∧ (∀ x : Int, 0 < x → classify c.documented x = .unknown)
    ∧ (∀ x ∈ c.documented, classify c.documented x = .named x)
    ∧ (∀ x : Int, x ≠ 0 → x ∉ c.documented → classify c.documented x = .unknown))
  ∧ (∀ b : Byte, sext8 b = b.toInt ∧ -128 ≤ sext8 b ∧ sext8 b ≤ 127)
  ∧ (∀ v : Half, statusByte v = BitVec.ofNat 8 (v.toNat / 256))
  ∧ (∀ (c : Cfg) (raw : Byte), c.WF → classOf c raw =
    if raw = 0#8 then .ok
    else if raw.toInt ∈ c.documented then .named raw.toInt
    else .unknown)

/-- The check values of the CRC as R203 lists them; the spec takes them from general knowledge (log
entry 14). -/
def Obligations.CrcCheckValues : Prop :=
  crc16 [0x31#8, 0x32#8, 0x33#8, 0x34#8, 0x35#8, 0x36#8, 0x37#8, 0x38#8, 0x39#8] = 0x31C3#16
    ∧ crc16 [] = 0x0000#16 ∧ crc16 [0x01#8] = 0x1021#16 ∧ crc16 [0x80#8] = 0x9188#16
    ∧ ∀ n, crc16 (List.replicate n 0x00#8) = 0x0000#16

/-- The discard-marker test is on bits 11:8 of the identifier and comes first: a packet is marked iff
`(id and 0x0F00) = 0x0F00`, whatever byte 1 and the checksum hold (R201). -/
def Obligations.MarkerTestIsOnByteZeroAlone : Prop :=
  (∀ p : List Byte, validate p = .discard .marked ↔ p.getD 0 0#8 &&& 0x0F#8 = 0x0F#8)
    ∧ (∀ p : List Byte, validate p = .discard .marked ↔ lineId p &&& 0x0F00#16 = 0x0F00#16)

/-- Bits 7:4 of byte 0 do not affect the outcome (R205, an inference the spec marks as its own). -/
def Obligations.TopNibbleIsExcluded : Prop :=
  ∀ (p : List Byte) (t : Byte), p.length = 164 →
    validate (p.set 0 ((t <<< 4) ||| (p.getD 0 0#8 &&& 0x0F#8))) = validate p

/-- A packet that is not marked is accepted with its checksum field set to the computed CRC, and with
no other value of that field (R206, an inference the spec marks as its own). -/
def Obligations.ExactlyOneChecksumIsAccepted : Prop :=
  ∀ p : List Byte, p.length = 164 → p.getD 0 0#8 &&& 0x0F#8 ≠ 0x0F#8 →
    validate (withChecksum p (crc16 (maskPacket p))) = .accept
    ∧ ∃! v : Half, validate (withChecksum p v) = .accept

/-- Take an accepted packet and flip one bit: bits 7:4 of byte 0 leave it accepted, bytes 2 and 3 make
the checksum wrong, a low nibble of byte 0 that becomes `0xF` makes it marked, and every other flip
makes the checksum wrong (R207, an inference the spec marks as its own). -/
def Obligations.SingleBitFlipsAreDetected : Prop :=
  ∀ (p : List Byte) (k j : Nat), p.length = 164 → validate p = .accept → k < 164 → j < 8 →
    (k = 0 → 4 ≤ j → validate (flipBit p k j) = .accept)
    ∧ (k = 2 ∨ k = 3 → validate (flipBit p k j) = .discard .checksum)
    ∧ (k = 0 → j < 4 → (flipBit p k j).getD 0 0#8 &&& 0x0F#8 = 0x0F#8 →
      validate (flipBit p k j) = .discard .marked)
    ∧ (k = 0 → j < 4 → (flipBit p k j).getD 0 0#8 &&& 0x0F#8 ≠ 0x0F#8 →
      validate (flipBit p k j) = .discard .checksum)
    ∧ (k = 1 ∨ 4 ≤ k → validate (flipBit p k j) = .discard .checksum)

/-- The all-zero packet is accepted and starts a frame, the all-ones packet is marked (R208, an
inference the spec marks as its own). -/
def Obligations.AllZeroAcceptedAllOnesMarked : Prop :=
  validate (List.replicate 164 0x00#8) = .accept ∧ lineId (List.replicate 164 0x00#8) = 0#16
    ∧ validate (List.replicate 164 0xFF#8) = .discard .marked

/-! ### Control-channel operations -/

/-- WRREG makes exactly one write of the address followed by the payload: OK when it succeeds,
`CtrlBusError` when it fails, and the rest of the state is as latched (R140). That `val_r`, `cmd_id_r`
and `cmd_len_r` stay as they are is the model's choice (log entry 26). -/
def Obligations.WrregResult : Prop :=
  ∀ (reg : Reg) (payload : List Byte) (s : State) (ws : List WriteAnswer), s.opBusy = false →
    let u := { s with
      opR := 0x01#8, regR := reg.selector, payR := payload
      payLenR := BitVec.ofNat 8 payload.length, cbWriteRsp := ws }
    (s.cbWriteRsp = .ok :: ws →
      exec (.wrreg reg payload) s = .next (ended u .done (wrote s.cfg reg payload true :: s.trace)))
    ∧ (s.cbWriteRsp = .err :: ws →
      exec (.wrreg reg payload) s
        = .next (ended u (.error .ctrlBusError) (wrote s.cfg reg payload false :: s.trace)))

/-- RDREG makes exactly one write-then-read of 2 bytes: the big-endian value when it succeeds,
`CtrlBusError` when it fails (R142). The model's own in the exact next state: RDREG STATUS leaves
`status_r` (DEDUCED, log entry 11), and operand latches not used stay (log entry 26). -/
def Obligations.RdregResult : Prop :=
  ∀ (reg : Reg) (s : State) (rs : List ReadAnswer), s.opBusy = false →
    let u := { s with opR := 0x02#8, regR := reg.selector, cbReadRsp := rs }
    (∀ b0 b1, s.cbReadRsp = .ok b0 b1 :: rs →
      exec (.rdreg reg) s
        = .next (ended { u with rdValR := be16 b0 b1 } (.value (be16 b0 b1))
          (didRead s.cfg reg (b0, b1) :: s.trace)))
    ∧ (s.cbReadRsp = .err :: rs →
      exec (.rdreg reg) s
        = .next (ended u (.error .ctrlBusError) (readFailed s.cfg reg :: s.trace)))

/-- GBOOT makes one read of STATUS and answers whether bit 1 is set (R150). The model's own in the
exact next state: `sc_r` stays (DEDUCED, log entry 12), `rd_val_r` stays (DEDUCED, log entry 11), and the
operand latches stay (log entry 26). -/
def Obligations.GbootResult : Prop :=
  ∀ (s : State) (rs : List ReadAnswer), s.opBusy = false →
    let u := { s with opR := 0x04#8, cbReadRsp := rs }
    (∀ b0 b1, s.cbReadRsp = .ok b0 b1 :: rs →
      exec .gboot s
        = .next (ended { u with statusR := be16 b0 b1 } (.truth (b1.getLsbD 1))
          (didRead s.cfg .status (b0, b1) :: s.trace)))
    ∧ (s.cbReadRsp = .err :: rs →
      exec .gboot s
        = .next (ended u (.error .ctrlBusError) (readFailed s.cfg .status :: s.trace)))

/-- GIFST makes one read of STATUS and answers whether bit 0 is clear (R151). The model's own in the
exact next state: `sc_r` stays (DEDUCED, log entry 12), `rd_val_r` stays (DEDUCED, log entry 11), and the
operand latches stay (log entry 26). -/
def Obligations.GifstResult : Prop :=
  ∀ (s : State) (rs : List ReadAnswer), s.opBusy = false →
    let u := { s with opR := 0x05#8, cbReadRsp := rs }
    (∀ b0 b1, s.cbReadRsp = .ok b0 b1 :: rs →
      exec .gifst s
        = .next (ended { u with statusR := be16 b0 b1 } (.truth (!b1.getLsbD 0))
          (didRead s.cfg .status (b0, b1) :: s.trace)))
    ∧ (s.cbReadRsp = .err :: rs →
      exec .gifst s
        = .next (ended u (.error .ctrlBusError) (readFailed s.cfg .status :: s.trace)))

/-- GSTAT makes one read of STATUS and answers the class of the signed upper byte with the raw byte
(R152). The model's own in the exact next state: `rd_val_r` stays (DEDUCED, log entry 11), and the
operand latches stay (log entry 26). -/
def Obligations.GstatResult : Prop :=
  ∀ (s : State) (rs : List ReadAnswer), s.opBusy = false →
    let u := { s with opR := 0x06#8, cbReadRsp := rs }
    (∀ b0 b1, s.cbReadRsp = .ok b0 b1 :: rs →
      exec .gstat s
        = .next (ended { u with statusR := be16 b0 b1, scR := b0 } (.status b0 (classOf s.cfg b0))
          (didRead s.cfg .status (b0, b1) :: s.trace)))
    ∧ (s.cbReadRsp = .err :: rs →
      exec .gstat s
        = .next (ended u (.error .ctrlBusError) (readFailed s.cfg .status :: s.trace)))

/-- EXEC with every transaction answered: the DATA0 write when there is a payload, then LENGTH, then
COMMAND, then STATUS reads with a wait between two, up to the first whose bit 0 is 0; nothing but
bit 0 of them matters (R145, R146, R147, R149). The interval timer has run out once for each wait, and
`n` times more (an input, log entry 27). The model's own in the exact next state: `rd_val_r` stays over
the STATUS reads (DEDUCED, log entry 11), and `reg_r` and `val_r` stay (log entry 26). -/
def Obligations.ExecCompletes : Prop :=
  ∀ (id len : Half) (payload : List Byte) (s : State) (busy : List (Byte × Byte))
    (r : Byte × Byte) (ws : List WriteAnswer) (rs : List ReadAnswer) (n : Nat), s.opBusy = false →
    s.cbWriteRsp = dataOk payload ++ .ok :: .ok :: ws →
    s.cbReadRsp = answers busy ++ .ok r.1 r.2 :: rs → (∀ b ∈ busy, Busy b) → Ready r →
    s.timerRsp = busy.length + n → PollsAllowed s.cfg busy.length →
    exec (.execute id len payload) s
      = .next (ended
        { execLatched s id len payload with
          statusR := be16 r.1 r.2, pollCnt := busy.length + 1, cbWriteRsp := ws, cbReadRsp := rs
          timerRsp := n }
        .done
        (didRead s.cfg .status r :: polled s.cfg busy (commandSent s.cfg id len payload s.trace)))

/-- A transport error ends EXEC where it happens, with `CtrlBusError` and no later step: at the DATA0
write, at the LENGTH write, at the COMMAND write, or at a STATUS read; `status_r` then holds the last
value read, or what it held (R153). The model's own in the exact next states: `poll_cnt` does not count
the failed read (DEDUCED, log entry 6), `rd_val_r` stays (DEDUCED, log entry 11), and operand latches not
used stay (log entry 26); the timer's expiries are an input (log entry 27). -/
def Obligations.ExecAbortsWhereATransactionFails : Prop :=
  ∀ (id len : Half) (payload : List Byte) (s : State) (ws : List WriteAnswer), s.opBusy = false →
    let u := { execLatched s id len payload with cbWriteRsp := ws }
    (payload ≠ [] → s.cbWriteRsp = .err :: ws →
      exec (.execute id len payload) s
        = .next (ended u (.error .ctrlBusError) (wrote s.cfg .data0 payload false :: s.trace)))
    ∧ (s.cbWriteRsp = dataOk payload ++ .err :: ws →
      exec (.execute id len payload) s
        = .next (ended u (.error .ctrlBusError)
          (wrote s.cfg .length (toBe16 len) false :: dataDone s.cfg payload s.trace)))
    ∧ (s.cbWriteRsp = dataOk payload ++ .ok :: .err :: ws →
      exec (.execute id len payload) s
        = .next (ended u (.error .ctrlBusError)
          (wrote s.cfg .command (toBe16 id) false :: wrote s.cfg .length (toBe16 len) true
            :: dataDone s.cfg payload s.trace)))
    ∧ (∀ (busy : List (Byte × Byte)) (rs : List ReadAnswer) (n : Nat),
      s.cbWriteRsp = dataOk payload ++ .ok :: .ok :: ws →
      s.cbReadRsp = answers busy ++ .err :: rs → (∀ b ∈ busy, Busy b) →
      s.timerRsp = busy.length + n → PollsAllowed s.cfg busy.length →
      exec (.execute id len payload) s
        = .next (ended
          { u with
            statusR := lastStatus s.statusR busy, pollCnt := busy.length, cbReadRsp := rs
            timerRsp := n }
          (.error .ctrlBusError)
          (readFailed s.cfg .status
            :: polled s.cfg busy (commandSent s.cfg id len payload s.trace))))

/-- The bound on the poll loop: with `MAX_POLLS = n`, the n-th STATUS read with bit 0 = 1 raises
`DeviceUnresponsive` without a further wait; with `MAX_POLLS = None` EXEC is still in flight after any
number of busy reads (R148). The model's own in the states: `poll_cnt` does not count the read that is
not answered yet (DEDUCED, log entry 6), `rd_val_r` stays over the STATUS reads (DEDUCED, log entry 11),
and operand latches not used stay (log entry 26); the timer's expiries are an input (log entry 27). -/
def Obligations.PollBoundDecidesTheLoop : Prop :=
  ∀ (id len : Half) (payload : List Byte) (s : State) (busy : List (Byte × Byte))
    (ws : List WriteAnswer) (n : Nat), s.opBusy = false →
    s.cbWriteRsp = dataOk payload ++ .ok :: .ok :: ws → (∀ b ∈ busy, Busy b) →
    s.timerRsp = busy.length + n →
    (∀ (last : Byte × Byte) (rs : List ReadAnswer), Busy last →
      s.cfg.maxPolls = some (busy.length + 1) → s.cbReadRsp = answers (busy ++ [last]) ++ rs →
      exec (.execute id len payload) s
        = .next (ended
          { execLatched s id len payload with
            statusR := be16 last.1 last.2, pollCnt := busy.length + 1
            cbWriteRsp := ws, cbReadRsp := rs, timerRsp := n }
          (.error .deviceUnresponsive)
          (didRead s.cfg .status last
            :: polled s.cfg busy (commandSent s.cfg id len payload s.trace))))
    ∧ (s.cfg.maxPolls = none → s.cbReadRsp = answers busy →
      ∃ t, exec (.execute id len payload) s = .next t ∧ t.opBusy = true ∧ t.chanSel = .ctrl
        ∧ t.ccsState = .poll ∧ t.opR = 0x03#8 ∧ t.pollCnt = busy.length ∧ t.cbReadRsp = []
        ∧ t.timerRsp = n
        ∧ t.trace = polled s.cfg busy (commandSent s.cfg id len payload s.trace))

/-- The wait between two polls: after a busy read below the bound EXEC holds in `C_POLL_WAIT` until the
interval timer runs out, and any operation that holds there then goes on from `C_POLL` with the wait in
the trace (R147, R158, R297). That the expiry is an input is the model's choice (log entry 27);
so are, in the exact next state, `rd_val_r` left by the STATUS reads (DEDUCED, log entry 11) and operand
latches not used left as they are (log entry 26). -/
def Obligations.PollWaitHoldsUntilTheTimer : Prop :=
  (∀ (id len : Half) (payload : List Byte) (s : State) (busy : List (Byte × Byte))
    (last : Byte × Byte) (ws : List WriteAnswer) (rs : List ReadAnswer), s.opBusy = false →
    s.cbWriteRsp = dataOk payload ++ .ok :: .ok :: ws → (∀ b ∈ busy, Busy b) → Busy last →
    s.cbReadRsp = answers (busy ++ [last]) ++ rs → s.timerRsp = busy.length →
    PollsAllowed s.cfg (busy.length + 1) →
    exec (.execute id len payload) s
      = .next { execLatched s id len payload with
        opBusy := true, chanSel := .ctrl, ccsState := .pollWait
        statusR := be16 last.1 last.2, pollCnt := busy.length + 1
        cbWriteRsp := ws, cbReadRsp := rs, timerRsp := 0
        trace := didRead s.cfg .status last
          :: polled s.cfg busy (commandSent s.cfg id len payload s.trace) })
  ∧ (∀ s : State, s.chanSel = .ctrl → s.ccsState = .pollWait →
    (s.timerRsp = 0 → resume s = s)
    ∧ (∀ n, s.timerRsp = n + 1 →
      resume s = resume { s with
        ccsState := .poll, timerRsp := n, trace := .sleep s.cfg.pollInterval :: s.trace }))

/-! ### Configuration operations -/

/-- Each SET operation with every transaction answered: `to_be16(v)` to DATA0, the table's data-length
to LENGTH, the table's command-id to COMMAND, the poll, one more STATUS read, and the StatusCode of
that read; a StatusCode other than `Ok` leaves `RC = OK` (R170, R184). That `pay_r` and `pay_len_r` then
hold the operand's two bytes is the model's reading of R24 and R158 (DEDUCED, log entry 13); so are
`rd_val_r` left by the STATUS reads (DEDUCED, log entry 11) and `reg_r` left as it is (log entry 26); the
timer's expiries are an input (log entry 27). -/
def Obligations.SetOperationsComplete : Prop :=
  ∀ (p : Param) (v : Half) (s : State) (busy : List (Byte × Byte)) (r q : Byte × Byte)
    (ws : List WriteAnswer) (rs : List ReadAnswer) (n : Nat), s.opBusy = false →
    s.cbWriteRsp = .ok :: .ok :: .ok :: ws →
    s.cbReadRsp = answers busy ++ .ok r.1 r.2 :: .ok q.1 q.2 :: rs → (∀ b ∈ busy, Busy b) →
    Ready r → s.timerRsp = busy.length + n → PollsAllowed s.cfg busy.length →
    exec (setOp v p) s
      = .next (ended
        { setLatched s p v with
          statusR := be16 q.1 q.2, scR := q.1, pollCnt := busy.length + 1
          cbWriteRsp := ws, cbReadRsp := rs, timerRsp := n }
        (.status q.1 (classOf s.cfg q.1))
        (didRead s.cfg .status q :: didRead s.cfg .status r
          :: polled s.cfg busy (setSent s p v)))

/-- Each GET operation with every transaction answered: the table's data-length and command-id without
a DATA0 write, the poll, one read of DATA0, one read of STATUS, and the value with the StatusCode
(R170, R184). That `reg_r`, `val_r`, `pay_r` and `pay_len_r` stay as they are is the model's choice (log
entry 26), that a STATUS read leaves `rd_val_r` its reading (DEDUCED, log entry 11); the timer's expiries
are an input (log entry 27). -/
def Obligations.GetOperationsComplete : Prop :=
  ∀ (p : Param) (s : State) (busy : List (Byte × Byte)) (r d q : Byte × Byte)
    (ws : List WriteAnswer) (rs : List ReadAnswer) (n : Nat), s.opBusy = false →
    s.cbWriteRsp = .ok :: .ok :: ws →
    s.cbReadRsp = answers busy ++ .ok r.1 r.2 :: .ok d.1 d.2 :: .ok q.1 q.2 :: rs →
    (∀ b ∈ busy, Busy b) → Ready r → s.timerRsp = busy.length + n →
    PollsAllowed s.cfg busy.length →
    exec (getOp p) s
      = .next (ended
        { getLatched s p with
          rdValR := be16 d.1 d.2, statusR := be16 q.1 q.2, scR := q.1, pollCnt := busy.length + 1
          cbWriteRsp := ws, cbReadRsp := rs, timerRsp := n }
        (.valueStatus (be16 d.1 d.2) q.1 (classOf s.cfg q.1))
        (didRead s.cfg .status q :: didRead s.cfg .data0 d :: didRead s.cfg .status r
          :: polled s.cfg busy (getSent s p)))

/-- After the poll, a bus error ends a SET at its status read and a GET at its data read or its status
read, with no value and no StatusCode; and the poll's bound ends both before any such read (R153,
R170, R184; R171 says so as an inference the spec marks as its own). The timer's expiries are an input
(log entry 27). -/
def Obligations.GetAndSetAbortAfterThePoll : Prop :=
  ∀ (p : Param) (v : Half) (s : State) (busy : List (Byte × Byte)) (r d : Byte × Byte)
    (ws : List WriteAnswer) (rs : List ReadAnswer) (n : Nat), s.opBusy = false →
    (∀ b ∈ busy, Busy b) → s.timerRsp = busy.length + n →
    let sent := polled s.cfg busy (setSent s p v)
    let asked := polled s.cfg busy (getSent s p)
    (s.cbWriteRsp = .ok :: .ok :: .ok :: ws →
      s.cbReadRsp = answers busy ++ .ok r.1 r.2 :: .err :: rs → Ready r →
      PollsAllowed s.cfg busy.length →
      ∃ t, exec (setOp v p) s = .next t ∧ t.Idle ∧ t.cbReadRsp = rs ∧ t.timerRsp = n
        ∧ t.trace = .opResponse (Result.error .ctrlBusError).word :: readFailed s.cfg .status
          :: didRead s.cfg .status r :: sent)
    ∧ (s.cbWriteRsp = .ok :: .ok :: ws →
      s.cbReadRsp = answers busy ++ .ok r.1 r.2 :: .err :: rs → Ready r →
      PollsAllowed s.cfg busy.length →
      ∃ t, exec (getOp p) s = .next t ∧ t.Idle ∧ t.cbReadRsp = rs ∧ t.timerRsp = n
        ∧ t.trace = .opResponse (Result.error .ctrlBusError).word :: readFailed s.cfg .data0
          :: didRead s.cfg .status r :: asked)
    ∧ (s.cbWriteRsp = .ok :: .ok :: ws →
      s.cbReadRsp = answers busy ++ .ok r.1 r.2 :: .ok d.1 d.2 :: .err :: rs → Ready r →
      PollsAllowed s.cfg busy.length →
      ∃ t, exec (getOp p) s = .next t ∧ t.Idle ∧ t.cbReadRsp = rs ∧ t.timerRsp = n
        ∧ t.trace = .opResponse (Result.error .ctrlBusError).word :: readFailed s.cfg .status
          :: didRead s.cfg .data0 d :: didRead s.cfg .status r :: asked)
    ∧ (s.cbWriteRsp = .ok :: .ok :: .ok :: ws → Busy r →
      s.cfg.maxPolls = some (busy.length + 1) → s.cbReadRsp = answers (busy ++ [r]) ++ rs →
      ∃ t, exec (setOp v p) s = .next t ∧ t.Idle ∧ t.cbReadRsp = rs ∧ t.timerRsp = n
        ∧ t.trace = .opResponse (Result.error .deviceUnresponsive).word
          :: didRead s.cfg .status r :: sent)
    ∧ (s.cbWriteRsp = .ok :: .ok :: ws → Busy r →
      s.cfg.maxPolls = some (busy.length + 1) → s.cbReadRsp = answers (busy ++ [r]) ++ rs →
      ∃ t, exec (getOp p) s = .next t ∧ t.Idle ∧ t.cbReadRsp = rs ∧ t.timerRsp = n
        ∧ t.trace = .opResponse (Result.error .deviceUnresponsive).word
          :: didRead s.cfg .status r :: asked)

/-- A bus error up to the end of the poll ends a SET or a GET where it happens, with no later step: a
SET at its DATA0, LENGTH or COMMAND write or at a STATUS read of its poll, a GET at its LENGTH or
COMMAND write or at such a read (R153, R170; R171 says so as an inference the spec marks as its own).
The model's own in the exact next states: the dead values of `pay_r` and `pay_len_r` (log entries 13 and
26) and of the other operand latches (log entry 26), `poll_cnt` without the failed read (DEDUCED, log
entry 6), `rd_val_r` left by the STATUS reads (DEDUCED, log entry 11); the timer's expiries are an input
(log entry 27). -/
def Obligations.GetAndSetAbortUpToThePoll : Prop :=
  ∀ (p : Param) (v : Half) (s : State) (ws : List WriteAnswer), s.opBusy = false →
    let c := s.cfg.cmdTable.of p
    let a := { setLatched s p v with cbWriteRsp := ws }
    let g := { getLatched s p with cbWriteRsp := ws }
    (s.cbWriteRsp = .err :: ws →
      exec (setOp v p) s
        = .next (ended a (.error .ctrlBusError) (wrote s.cfg .data0 (toBe16 v) false :: s.trace)))
    ∧ (s.cbWriteRsp = .ok :: .err :: ws →
      exec (setOp v p) s
        = .next (ended a (.error .ctrlBusError)
          (wrote s.cfg .length (toBe16 c.set.len) false
            :: wrote s.cfg .data0 (toBe16 v) true :: s.trace)))
    ∧ (s.cbWriteRsp = .ok :: .ok :: .err :: ws →
      exec (setOp v p) s
        = .next (ended a (.error .ctrlBusError)
          (wrote s.cfg .command (toBe16 c.set.id) false
            :: wrote s.cfg .length (toBe16 c.set.len) true
            :: wrote s.cfg .data0 (toBe16 v) true :: s.trace)))
    ∧ (s.cbWriteRsp = .err :: ws →
      exec (getOp p) s
        = .next (ended g (.error .ctrlBusError)
          (wrote s.cfg .length (toBe16 c.get.len) false :: s.trace)))
    ∧ (s.cbWriteRsp = .ok :: .err :: ws →
      exec (getOp p) s
        = .next (ended g (.error .ctrlBusError)
          (wrote s.cfg .command (toBe16 c.get.id) false
            :: wrote s.cfg .length (toBe16 c.get.len) true :: s.trace)))
    ∧ (∀ (busy : List (Byte × Byte)) (rs : List ReadAnswer) (n : Nat),
      s.cbReadRsp = answers busy ++ .err :: rs → (∀ b ∈ busy, Busy b) →
      s.timerRsp = busy.length + n → PollsAllowed s.cfg busy.length →
      (s.cbWriteRsp = .ok :: .ok :: .ok :: ws →
        exec (setOp v p) s
          = .next (ended
            { a with
              statusR := lastStatus s.statusR busy, pollCnt := busy.length, cbReadRsp := rs
              timerRsp := n }
            (.error .ctrlBusError)
            (readFailed s.cfg .status :: polled s.cfg busy (setSent s p v))))
      ∧ (s.cbWriteRsp = .ok :: .ok :: ws →
        exec (getOp p) s
          = .next (ended
            { g with
              statusR := lastStatus s.statusR busy, pollCnt := busy.length, cbReadRsp := rs
              timerRsp := n }
            (.error .ctrlBusError)
            (readFailed s.cfg .status :: polled s.cfg busy (getSent s p)))))

/-- On a run with no error class, SET_x makes exactly the bus transactions, in the same order, and ends
with the response of the host sequence EXEC with the table's command and `to_be16(v)`, then GSTAT
(R171, an inference the spec marks as its own from R170). -/
def Obligations.SetEqualsExecThenGstat : Prop :=
  ∀ (p : Param) (v : Half) (s t u : State), s.opBusy = false →
    exec (.execute (s.cfg.cmdTable.of p).set.id (s.cfg.cmdTable.of p).set.len (toBe16 v)) s
      = .next t →
    t.opBusy = false → t.trace.head? = some (.opResponse Result.done.word) →
    exec .gstat t = .next u → u.opBusy = false →
    u.trace.head? ≠ some (.opResponse (Result.error .ctrlBusError).word) →
    ∃ x, exec (setOp v p) s = .next x ∧ x.opBusy = false ∧ busOf x.trace = busOf u.trace
      ∧ x.trace.head? = u.trace.head? ∧ x.cbWriteRsp = u.cbWriteRsp ∧ x.cbReadRsp = u.cbReadRsp
      ∧ x.timerRsp = u.timerRsp

/-- On a run with no error class, GET_x makes exactly the bus transactions, in the same order, of the
host sequence EXEC with the table's command and no payload, RDREG DATA0, GSTAT, and ends with the
value of the one and the StatusCode of the other (R171, an inference the spec marks as its own from
R170). -/
def Obligations.GetEqualsExecRdregGstat : Prop :=
  ∀ (p : Param) (s t u w : State), s.opBusy = false →
    exec (.execute (s.cfg.cmdTable.of p).get.id (s.cfg.cmdTable.of p).get.len []) s = .next t →
    t.opBusy = false → t.trace.head? = some (.opResponse Result.done.word) →
    exec (.rdreg .data0) t = .next u → u.opBusy = false →
    u.trace.head? ≠ some (.opResponse (Result.error .ctrlBusError).word) →
    exec .gstat u = .next w → w.opBusy = false →
    w.trace.head? ≠ some (.opResponse (Result.error .ctrlBusError).word) →
    ∃ x, exec (getOp p) s = .next x ∧ x.opBusy = false ∧ busOf x.trace = busOf w.trace
      ∧ x.trace.head? = some (.opResponse
        (Result.valueStatus u.rdValR w.scR (classOf s.cfg w.scR)).word)
      ∧ x.cbWriteRsp = w.cbWriteRsp ∧ x.cbReadRsp = w.cbReadRsp
      ∧ x.timerRsp = w.timerRsp

/-- For each parameter the GET and the SET write different command-ids that differ in exactly one bit;
a GET never writes DATA0, and a SET writes it, with its operand, before anything else (R185, an
inference the spec marks as its own). -/
def Obligations.GetAndSetDifferOnTheBus : Prop :=
  (∀ (c : Cfg) (p : Param), c.WF → (c.cmdTable.of p).get.id ≠ (c.cmdTable.of p).set.id
    ∧ popcount ((c.cmdTable.of p).get.id ^^^ (c.cmdTable.of p).set.id) = 1)
  ∧ (∀ (p : Param) (s t : State), s.cfg.WF → exec (getOp p) s = .next t →
    ∃ new, t.trace = new ++ s.trace
      ∧ ∀ dev bytes ok, Event.ctrlWrite dev bytes ok ∈ new → bytes.take 2 ≠ addrBytes s.cfg .data0)
  ∧ (∀ (p : Param) (v : Half) (s t : State), s.opBusy = false → exec (setOp v p) s = .next t →
    ∃ new, t.trace = new ++ s.trace
      ∧ (new = [] ∨ ∃ later ok, new = later ++ [wrote s.cfg .data0 (toBe16 v) ok]))

/-! ### Packet validator, frame assembler, frame output -/

/-- PVAL answers the validator's outcome on its packet and makes no transaction; the only state it
leaves behind is the validator's own copy and CRC, which a marked packet does not reach (R200, R210). That the
operand latches stay as they are is the model's choice (log entry 26). -/
def Obligations.PvalResult : Prop :=
  ∀ (packet : List Byte) (s : State), s.opBusy = false →
    (packet.getD 0 0#8 &&& 0x0F#8 = 0x0F#8 →
      exec (.pval packet) s
        = .next (ended { s with opR := 0x42#8 } (.verdict (.discard .marked)) s.trace))
    ∧ (packet.getD 0 0#8 &&& 0x0F#8 ≠ 0x0F#8 →
      exec (.pval packet) s
        = .next (ended
          { s with opR := 0x42#8, scratch := maskPacket packet, crcR := crc16 (maskPacket packet) }
          (.verdict (if crc16 (maskPacket packet) = be16 (packet.getD 2 0#8) (packet.getD 3 0#8)
            then .accept else .discard .checksum)) s.trace))

/-- CAPTURE that finds line 0 after any attempts, reads the bulk, and accepts all 60 packets publishes
the frame as received, exactly these reads and no LOG record in the trace (R221, R222, R226, R228). -/
def Obligations.CapturePublishesAValidFrame : Prop :=
  ∀ (s : State) (as : List Attempt) (first bulk : List Byte) (ds : List DataAnswer)
    (bs : List Byte), FindsLineZero s as first (.ok :: ds) (bulk ++ bs) → bulk.length = 9676 →
    s.fbLock = false → s.asmBuf.wf →
    (∀ i < 60, validate (packetOf (first ++ bulk) i) = .accept) →
    ∃ t, exec .capture s = .next t ∧ t.Idle ∧ t.fbValid = true
      ∧ t.fb.readBlock 0 9840 = first ++ bulk
      ∧ (∀ a < 9840, t.fb.read a = (first ++ bulk).getD a 0#8)
      ∧ t.syncCnt = as.length + 1 ∧ t.pktIdx = 59#6 ∧ t.dbRsp = ds ∧ t.stream = bs
      ∧ t.trace = .opResponse Result.updated.word :: .dataRead 9676 true :: .dataRead 164 true
        :: attempted as s.trace

/-- CAPTURE that finds line 0 and reads the bulk, but whose packet `i` is the lowest-indexed one
discarded, logs reason and index, answers `NoUpdate` with both, and writes neither `fb` nor `fb_valid`
(R227, R276, R281 e). -/
def Obligations.CaptureDiscardsAnInvalidFrame : Prop :=
  ∀ (s : State) (as : List Attempt) (first bulk : List Byte) (ds : List DataAnswer)
    (bs : List Byte) (i : Nat) (r : Reason), FindsLineZero s as first (.ok :: ds) (bulk ++ bs) →
    bulk.length = 9676 → s.asmBuf.wf → i < 60 →
    (∀ j < i, validate (packetOf (first ++ bulk) j) = .accept) →
    validate (packetOf (first ++ bulk) i) = .discard r →
    ∃ t, exec .capture s = .next t ∧ t.Idle ∧ t.fb = s.fb ∧ t.fbValid = s.fbValid
      ∧ t.dbRsp = ds ∧ t.stream = bs
      ∧ t.trace = .opResponse (Result.noUpdate r i).word
        :: .log (r.code.zeroExtend 16 <<< 8 ||| BitVec.ofNat 16 i)
        :: .dataRead 9676 true :: .dataRead 164 true :: attempted as s.trace

/-- CAPTURE whose bulk read fails raises `DataBusError` without a retry; `fb` is unchanged, and
`asm_buf` holds the first packet and above it what it held (R222, R224, R272). -/
def Obligations.CaptureBulkReadFailureIsNotRetried : Prop :=
  ∀ (s : State) (as : List Attempt) (first lost : List Byte) (ds : List DataAnswer)
    (bs : List Byte), FindsLineZero s as first (.err lost.length :: ds) (lost ++ bs) →
    ∃ t, exec .capture s = .next t ∧ t.Idle ∧ t.fb = s.fb ∧ t.fbValid = s.fbValid
      ∧ (∀ a < 164, t.asmBuf.read a = first.getD a 0#8)
      ∧ (∀ a, 164 ≤ a → t.asmBuf.read a = s.asmBuf.read a)
      ∧ t.dbRsp = ds ∧ t.stream = bs
      ∧ t.trace = .opResponse (Result.error .dataBusError).word :: .dataRead 9676 false
        :: .dataRead 164 true :: attempted as s.trace

/-- The bound on the synchronisation loop: with `MAX_SYNC_ATTEMPTS = n`, `n` attempts that start no
frame, failed reads and skipped blocks alike, raise `SyncExhausted` with no further read and `fb`
unchanged; without a bound CAPTURE is still synchronising after any number of them (R223, R274). In that
clause `sync_cnt` does not count the read that is not answered yet, which is the model's choice (log
entry 6). -/
def Obligations.SyncBoundDecidesTheLoop : Prop :=
  ∀ (s : State) (as : List Attempt) (ds : List DataAnswer) (bs : List Byte), s.opBusy = false →
    s.dbRsp = as.map Attempt.answer ++ ds → s.stream = as.flatMap Attempt.bytes ++ bs →
    (∀ a ∈ as, a.valid = true) →
    (s.cfg.maxSyncAttempts = some as.length →
      ∃ t, exec .capture s = .next t ∧ t.Idle ∧ t.fb = s.fb ∧ t.fbValid = s.fbValid
        ∧ t.asmBuf = s.asmBuf ∧ t.syncCnt = as.length ∧ t.dbRsp = ds ∧ t.stream = bs
        ∧ t.trace = .opResponse (Result.error .syncExhausted).word :: attempted as s.trace)
    ∧ (s.cfg.maxSyncAttempts = none → ds = [] →
      ∃ t, exec .capture s = .next t ∧ t.opBusy = true ∧ t.chanSel = .data ∧ t.faState = .sync
        ∧ t.opR = 0x40#8 ∧ t.asmBuf = s.asmBuf ∧ t.syncCnt = as.length
        ∧ t.trace = attempted as s.trace)

/-- RDFRAME with the lock free: the whole FrameBuffer when `fb_valid` is 1, `Empty` and no bytes when
it is 0, whatever the OP agent is doing, and nothing else changes (R232). -/
def Obligations.RdframeResult : Prop :=
  ∀ (k : Nat) (s : State), s.fbLock = false →
    (s.fbValid = true →
      exec (.rdframe k) s = .next { s with
        trace := .frameResponse k Result.frame.word (s.fb.readBlock 0 9840) :: s.trace })
    ∧ (s.fbValid = false →
      exec (.rdframe k) s = .next { s with
        trace := .frameResponse k Result.empty.word [] :: s.trace })

/-- What RDFRAME delivers of a canonical buffer is exactly 9,840 bytes, byte `a` of them the byte at
offset `a`, byte 0 first (R62, R92). -/
def Obligations.RdframeDeliversEveryByte : Prop :=
  ∀ (k : Nat) (s : State), s.fbLock = false → s.fbValid = true → s.fb.wf →
    ∃ t data, exec (.rdframe k) s = .next t
      ∧ t.trace = .frameResponse k Result.frame.word data :: s.trace ∧ data.length = 9840
      ∧ ∀ a < 9840, data.getD a 0#8 = s.fb.read a

/-! ### Trigger -/

/-- ARMTRIG sets `trig_armed`, keeps a pending wake-up, makes no transaction (R254). That the operand latches
stay as they are is the model's choice (log entry 26). -/
def Obligations.ArmtrigResult : Prop :=
  ∀ s : State, s.opBusy = false →
    exec .armtrig s = .next (ended { s with opR := 0x30#8, trigArmed := true } .done s.trace)

/-- WAITTRIG with a wake-up pending consumes it at once; with none it is held in flight (R257).
That the operand latches stay as they are is the model's choice (log entry 26). -/
def Obligations.WaittrigResult : Prop :=
  ∀ s : State, s.opBusy = false →
    (s.trigPending = true →
      exec .waittrig s = .next (ended { s with opR := 0x31#8, trigPending := false } .done s.trace))
    ∧ (s.trigPending = false →
      exec .waittrig s = .next { s with opBusy := true, opR := 0x31#8, chanSel := .none })

/-- A WAITTRIG issued while armed is held, and once an edge has come the OP agent's next turn ends it:
the response goes out and the latch is (0, 0) (R256, R257). -/
def Obligations.HeldWaittrigEndsAfterAnEdge : Prop :=
  ∀ (s : State) (l : List Turn), s.opBusy = false → s.trigArmed = true → s.trigPending = false →
    s.sched = .edge :: .op :: l →
    ∃ t u v, exec .waittrig s = .next t ∧ t.opBusy = true ∧ t.trace = s.trace
      ∧ step t = .next u ∧ u.opBusy = true ∧ step u = .next v ∧ v.Idle ∧ v.trigArmed = false
      ∧ v.trigPending = false ∧ v.sched = l
      ∧ v.trace = .opResponse Result.done.word :: s.trace

/-- A WAITTRIG held with the trigger disarmed and nothing pending never returns, in any run: edges are
lost, and no response goes out on the OP port (R257, R284). -/
def Obligations.DisarmedWaittrigNeverReturns : Prop :=
  ∀ (n : Nat) (s : State), s.DeadWait →
    ∃ t, Host.Core.run Sys2Proof.core n s = .next t ∧ t.DeadWait
      ∧ ∃ new, t.trace = new ++ s.trace ∧ ∀ w, Event.opResponse w ∉ new

/-! ### Frames -/

/-- The frame of the eighteen control-channel operations (WRREG, RDREG, EXEC, GBOOT, GIFST, GSTAT and
the twelve configuration operations), however they end: every byte of both buffers, `fb_valid`, the
trigger latch, the assembler's and validator's latches, the data channel, and each latch the operation
does not use are unchanged (R25, R24, R282). That acceptance writes no operand latch which the
operation does not use is the model's choice (log entry 26); that GBOOT and GIFST leave `sc_r` (DEDUCED,
log entry 12), STATUS reads leave `rd_val_r` and RDREG STATUS leaves `status_r` (DEDUCED, log entry 11) is
its reading. -/
def Obligations.ControlOperationsFrame : Prop :=
  ∀ (i : Instr) (s t : State), chanOf i.opcode = .ctrl → exec i s = .next t →
    SameSurroundings s t ∧ SameBytes s t ∧ t.asmBuf = s.asmBuf ∧ t.fb = s.fb
      ∧ t.fbValid = s.fbValid ∧ t.trigArmed = s.trigArmed ∧ t.trigPending = s.trigPending
      ∧ t.syncCnt = s.syncCnt ∧ t.pktIdx = s.pktIdx ∧ t.crcR = s.crcR ∧ t.scratch = s.scratch
      ∧ t.dbRsp = s.dbRsp ∧ t.stream = s.stream
      ∧ (i.opcode ≠ .wrreg → i.opcode ≠ .rdreg → t.regR = s.regR)
      ∧ (i.opcode ≠ .execute → (∀ p, i.opcode ≠ .get p ∧ i.opcode ≠ .set p) →
        t.cmdIdR = s.cmdIdR ∧ t.cmdLenR = s.cmdLenR ∧ t.pollCnt = s.pollCnt
          ∧ t.timerRsp = s.timerRsp)
      ∧ ((∀ p, i.opcode ≠ .set p) → t.valR = s.valR)
      ∧ (i.opcode ≠ .wrreg → i.opcode ≠ .execute → (∀ p, i.opcode ≠ .set p) →
        t.payR = s.payR ∧ t.payLenR = s.payLenR)
      ∧ (i.opcode ≠ .rdreg → (∀ p, i.opcode ≠ .get p) → t.rdValR = s.rdValR)
      ∧ (i.opcode ≠ .gstat → (∀ p, i.opcode ≠ .get p ∧ i.opcode ≠ .set p) → t.scR = s.scR)
      ∧ (i.opcode = .wrreg ∨ i.opcode = .rdreg → t.statusR = s.statusR)

/-- The frame of CAPTURE, however it ends: the control channel, its latches and the trigger latch are
unchanged; `asm_buf` changes only at the offsets the two reads fill: 0 to 163 and 164 to 9839, only 0 to
163 while the bulk read is awaited or when it failed, none while synchronising or when no packet was
found; `fb` and `fb_valid` are unchanged unless the response is `Updated`, and then `fb` is `asm_buf`
(R36, R228, R258). That acceptance writes no operand latch is the model's choice (log entry 26). -/
def Obligations.CaptureFrame : Prop :=
  ∀ s t : State, exec .capture s = .next t →
    SameSurroundings s t ∧ t.trigArmed = s.trigArmed ∧ t.trigPending = s.trigPending
      ∧ t.regR = s.regR ∧ t.cmdIdR = s.cmdIdR ∧ t.cmdLenR = s.cmdLenR ∧ t.valR = s.valR
      ∧ t.payR = s.payR ∧ t.payLenR = s.payLenR ∧ t.statusR = s.statusR ∧ t.rdValR = s.rdValR
      ∧ t.scR = s.scR ∧ t.pollCnt = s.pollCnt ∧ t.cbWriteRsp = s.cbWriteRsp
      ∧ t.cbReadRsp = s.cbReadRsp ∧ t.timerRsp = s.timerRsp
      ∧ (∀ a, 9840 ≤ a → t.asmBuf.read a = s.asmBuf.read a)
      ∧ (t.faState = .bulk
        ∨ t.trace.head? = some (.opResponse (Result.error .dataBusError).word) →
        ∀ a, 164 ≤ a → t.asmBuf.read a = s.asmBuf.read a)
      ∧ (t.faState = .sync
        ∨ t.trace.head? = some (.opResponse (Result.error .syncExhausted).word) →
        t.asmBuf = s.asmBuf)
      ∧ ((t.fb = s.fb ∧ t.fbValid = s.fbValid)
        ∨ (t.fb = t.asmBuf ∧ t.fbValid = true
          ∧ ∃ mid, t.trace = .opResponse Result.updated.word :: (mid ++ s.trace)))

/-- The frame of ARMTRIG, WAITTRIG, PVAL and RDFRAME, however they end: every byte of both buffers,
`fb_valid`, both channels and every latch of the control channel are unchanged; each of the four
touches no trigger flag and no validator latch but its own, and RDFRAME nothing of the OP agent's
(R210, R232, R254, R257). That acceptance writes no operand latch is the model's choice (log entry
26). -/
def Obligations.LocalOperationsFrame : Prop :=
  ∀ (i : Instr) (s t : State), chanOf i.opcode = .none → exec i s = .next t →
    SameSurroundings s t ∧ SameBytes s t ∧ t.asmBuf = s.asmBuf ∧ t.fb = s.fb
      ∧ t.fbValid = s.fbValid ∧ t.regR = s.regR ∧ t.cmdIdR = s.cmdIdR ∧ t.cmdLenR = s.cmdLenR
      ∧ t.valR = s.valR ∧ t.payR = s.payR ∧ t.payLenR = s.payLenR ∧ t.statusR = s.statusR
      ∧ t.rdValR = s.rdValR ∧ t.scR = s.scR ∧ t.pollCnt = s.pollCnt ∧ t.syncCnt = s.syncCnt
      ∧ t.pktIdx = s.pktIdx ∧ t.cbWriteRsp = s.cbWriteRsp ∧ t.cbReadRsp = s.cbReadRsp
      ∧ t.dbRsp = s.dbRsp ∧ t.stream = s.stream ∧ t.timerRsp = s.timerRsp
      ∧ (i ≠ .armtrig → t.trigArmed = s.trigArmed)
      ∧ (i ≠ .waittrig → t.trigPending = s.trigPending)
      ∧ ((∀ p, i ≠ .pval p) → t.crcR = s.crcR ∧ t.scratch = s.scratch)
      ∧ (∀ k, i = .rdframe k → t.opBusy = s.opBusy ∧ t.chanSel = s.chanSel
        ∧ t.ccsState = s.ccsState ∧ t.faState = s.faState ∧ t.opR = s.opR)

/-! ### The whole machine -/

/-- Only the unit that holds the grant issues transactions: what an operation sends out, at once or
when it goes on, is admitted by its channel of R96, so no operation uses both buses (R251;
R79 in part an inference the spec marks as its own). -/
def Obligations.ChannelGrantIsRespected : Prop :=
  (∀ (i : Instr) (s t : State), exec i s = .next t →
    ∃ new, t.trace = new ++ s.trace ∧ ∀ e ∈ new, (chanOf i.opcode).admits e = true)
  ∧ (∀ s : State, ∃ new, (resume s).trace = new ++ s.trace
    ∧ ∀ e ∈ new, s.chanSel.admits e = true)

/-- No operation ends with a result class outside its row of R279, whether it ends at once or after
being held; on a FRAME port RDFRAME ends with OK or EMPTY. The table is an inference the spec marks
as its own. -/
def Obligations.ResultClassesPerOperation : Prop :=
  (∀ (i : Instr) (s t : State), exec i s = .next t →
    ∃ new, t.trace = new ++ s.trace
      ∧ (∀ w, Event.opResponse w ∈ new → (responseFields w).1 ∈ allowedClasses s.cfg i.opcode)
      ∧ (∀ k w data, Event.frameResponse k w data ∈ new →
        i = .rdframe k ∧ (responseFields w).1 ∈ [0x00#8, 0x06#8]))
  ∧ (∀ (o : Opcode) (s : State), s.opR = o.byte → s.holds = true →
    ∃ new, (resume s).trace = new ++ s.trace
      ∧ ∀ w, Event.opResponse w ∈ new → (responseFields w).1 ∈ allowedClasses s.cfg o)

/-- When transport answers and timer expiries arrive makes no difference: an operation started with
those at hand and continued once more have come ends exactly as if they had all been there from the
start. This is what makes running an operation in one step (log entry 5) over queues of answers (log
entries 3 and 27) faithful to R78's one transaction at a time. -/
def Obligations.ArrivalTimeOfAnswersIsIrrelevant : Prop :=
  ∀ (i : Instr) (s t : State) (ws : List WriteAnswer) (rs : List ReadAnswer)
    (ds : List DataAnswer) (bs : List Byte) (n : Nat), s.opBusy = false →
    chanOf i.opcode ≠ .none → exec i s = .next t →
    exec i (feed ws rs ds bs n s) = .next (resume (feed ws rs ds bs n t))

/-- What reset leaves, for every configuration: FrameBuffer empty, trigger disarmed with nothing
pending, both state machines idle, no channel granted, lock free, configuration as given; and the OP
agent then waits for the first request (R50). The configuration `State.reset` itself has is the model's
choice (PRESUMED, log entry 2). -/
def Obligations.ResetValues : Prop :=
  (∀ c : Cfg, (State.resetWith c).fbValid = false ∧ (State.resetWith c).opBusy = false
    ∧ (State.resetWith c).chanSel = .none ∧ (State.resetWith c).ccsState = .idle
    ∧ (State.resetWith c).faState = .idle ∧ (State.resetWith c).trigArmed = false
    ∧ (State.resetWith c).trigPending = false ∧ (State.resetWith c).fbLock = false
    ∧ (State.resetWith c).cfg = c ∧ step (State.resetWith c) = .next (State.resetWith c))
  ∧ State.reset = State.resetWith Cfg.profile

/-- A reset between operations is total: a frame published before it is gone and RDFRAME answers
`Empty`, the trigger is disarmed, both state machines are idle; the configuration, the sensor's stream
and the requests at the OP port are as they were (R301, R302). While an operation is in flight the
model offers no reset and the turn changes nothing: the model's choice, which R51 leaves open (log
entry 19). -/
def Obligations.ResetBetweenOperationsIsTotal : Prop :=
  ∀ (s : State) (l : List Turn), s.sched = .reset :: l →
    (s.opBusy = false →
      ∃ t, step s = .next t ∧ t.Idle ∧ t.fbValid = false ∧ t.trigArmed = false
        ∧ t.trigPending = false ∧ t.fbLock = false ∧ t.cfg = s.cfg ∧ t.sched = l
        ∧ t.stream = s.stream ∧ t.timerRsp = s.timerRsp ∧ t.dbRsp = s.dbRsp
        ∧ t.cbWriteRsp = s.cbWriteRsp
        ∧ t.cbReadRsp = s.cbReadRsp ∧ t.opWords = s.opWords ∧ t.opPay = s.opPay
        ∧ t.trace = s.trace
        ∧ ∀ k, exec (.rdframe k) t
          = .next { t with trace := .frameResponse k 0x0000000000000006#64 [] :: t.trace })
    ∧ (s.opBusy = true → step s = .next { s with sched := l })

/-- The invariant holds at reset, for every configuration. -/
def Obligations.ResetMeetsTheInvariant : Prop := ∀ c : Cfg, (State.resetWith c).Inv

/-- Every step keeps the invariant: the state registers stay consistent with the operation in flight
(R23, R158, R230, R251), the lock is free between steps (R72), the buffers stay canonical, and a valid
FrameBuffer holds 60 accepted packets starting at line 0 (R38, an inference the spec marks as its
own). The canonical form is the model's (log entry 10). -/
def Obligations.StepKeepsTheInvariant : Prop := ∀ s t : State, s.Inv → step s = .next t → t.Inv

/-- Every step keeps both buffers in canonical form, from any state in which they are. The form
is the model's (log entry 10). -/
def Obligations.StepKeepsBuffersCanonical : Prop :=
  ∀ s t : State, s.BuffersWf → step s = .next t → t.BuffersWf

/-- No step changes the configuration (R35, R83). -/
def Obligations.ConfigurationNeverChanges : Prop := ∀ s t : State, step s = .next t → t.cfg = s.cfg

/-- In every step but a reset, `fb_valid` does not return to 0, and `fb` changes only where the step
ends a CAPTURE with `Updated`: then `fb` is `asm_buf`, the response is what the step sent last, and the
operation it ends is CAPTURE, in every state that meets the invariant (R25, R37, R228). -/
def Obligations.FrameBufferChangesOnlyByPublishing : Prop :=
  ∀ s t : State, (∀ l, s.sched ≠ .reset :: l) → step s = .next t →
    (s.fbValid = true → t.fbValid = true)
    ∧ ((t.fb = s.fb ∧ t.fbValid = s.fbValid)
      ∨ (t.fbValid = true ∧ t.fb = t.asmBuf
        ∧ (∃ mid, t.trace = .opResponse Result.updated.word :: (mid ++ s.trace))
        ∧ (s.Inv → t.opR = 0x40#8)))

/-- The machine never stops: every step from every state answers a next state (a hang is an infinite
run, R284). -/
def Obligations.EveryStepAnswersANextState : Prop := ∀ s : State, ∃ t, step s = .next t

/-- The profile reset is configured with meets the constraints of R9 and R128. The profile is the
model's choice (PRESUMED, log entry 2). -/
def Obligations.ProfileIsWellFormed : Prop := Cfg.profile.WF
end

