-- ==== Sys2Proof/Laws/Crc.lean ====
section
/-! SUPPORT. The checksum engine evaluated one byte at a time, each intermediate value reduced before the next byte, and the packets of one repeated byte. -/

namespace Sys2Proof.Machine

/-- The CRC of the rest of a message from a value on, the value a literal at every byte. -/
def crcFrom : List Byte → Half → Half
  | [], c => c
  | b :: bs, c =>
    match (crcByte c b).toNat with
    | 0 => crcFrom bs 0#16
    | n + 1 => crcFrom bs (BitVec.ofNat 16 (n + 1))

theorem crcFrom_eq (bs : List Byte) (c : Half) : crcFrom bs c = bs.foldl crcByte c := by
  induction bs generalizing c with
  | nil => rfl
  | cons b bs ih =>
    rw [crcFrom, List.foldl_cons]
    have h : BitVec.ofNat 16 (crcByte c b).toNat = crcByte c b := by simp
    split
    · rename_i h0; rw [ih, ← h, h0]
    · rename_i n hn; rw [ih, ← h, hn]

/-- `validate` by the byte-at-a-time CRC (R200, R203). -/
theorem validate_eq (p : List Byte) :
    validate p = if marked p then .discard .marked
      else if crcFrom (maskPacket p) 0x0000#16 ≠ storedCrc p then .discard .checksum
      else .accept := by
  rw [crcFrom_eq]; rfl

/-- A run of zero bytes leaves a zero CRC zero (R208). -/
theorem crc16_zeros (n : Nat) : crc16 (List.replicate n 0x00#8) = 0x0000#16 := by
  unfold crc16
  induction n with
  | zero => rfl
  | succ n ih =>
    rw [List.replicate_succ, List.foldl_cons, show crcByte 0x0000#16 0x00#8 = 0x0000#16 by decide, ih]

end Sys2Proof.Machine
end

