-- ==== Sys2Proof/Laws/Memory.lean ====
section
/-! SUPPORT. The buffers: a read after a write, the canonical form kept by every write, and block reads as runs of byte reads. -/

namespace Sys2Proof.Machine

@[simp] theorem Memory.read_nil (a : Nat) : Memory.read [] a = 0#8 := rfl

theorem Memory.read_cons (k : Nat) (b : Byte) (m : Memory) (a : Nat) :
    Memory.read ((k, b) :: m) a = if k = a then b else Memory.read m a := rfl

/-- An offset that no cell lists reads 0. -/
theorem Memory.read_unlisted {m : Memory} {a : Nat} (h : ∀ c ∈ m, c.1 ≠ a) :
    Memory.read m a = 0#8 := by
  induction m with
  | nil => rfl
  | cons c t ih =>
    obtain ⟨k, b⟩ := c
    rw [Memory.read_cons, if_neg (h (k, b) (by simp)), ih fun d hd => h d (by simp [hd])]

/-- The first part of a buffer is looked up first. -/
theorem Memory.read_append_right {m n : Memory} {a : Nat} (h : ∀ c ∈ m, c.1 ≠ a) :
    Memory.read (m ++ n) a = Memory.read n a := by
  induction m with
  | nil => rfl
  | cons c t ih =>
    obtain ⟨k, b⟩ := c
    rw [List.cons_append, Memory.read_cons, if_neg (h (k, b) (by simp)),
      ih fun d hd => h d (by simp [hd])]

theorem Memory.read_append_left {m n : Memory} {a : Nat} (h : ∀ c ∈ n, c.1 ≠ a) :
    Memory.read (m ++ n) a = Memory.read m a := by
  induction m with
  | nil => exact Memory.read_unlisted h
  | cons c t ih =>
    obtain ⟨k, b⟩ := c
    rw [List.cons_append, Memory.read_cons, Memory.read_cons, ih]

/-- Cells that a filter keeps read as before. -/
theorem Memory.read_filter {m : Memory} {a : Nat} {p : Nat → Bool} (h : p a = true) :
    Memory.read (m.filter fun c => p c.1) a = Memory.read m a := by
  induction m with
  | nil => rfl
  | cons c t ih =>
    obtain ⟨k, b⟩ := c
    by_cases hk : p k = true
    · rw [List.filter_cons_of_pos (by simpa using hk), Memory.read_cons, Memory.read_cons, ih]
    · have : k ≠ a := fun e => hk (e ▸ h)
      rw [List.filter_cons_of_neg (by simpa using hk), Memory.read_cons, if_neg this, ih]

/-- The cells of a block lie inside it and hold no zero. -/
theorem Memory.mem_cells {a : Nat} {bs : List Byte} {c : Host.Cell} (h : c ∈ Memory.cells a bs) :
    a ≤ c.1 ∧ c.1 < a + bs.length ∧ c.2 ≠ 0#8 := by
  induction bs generalizing a with
  | nil => simp [Memory.cells] at h
  | cons b t ih =>
    rw [Memory.cells] at h
    split at h
    · obtain ⟨h1, h2, h3⟩ := ih h
      exact ⟨by omega, by simp; omega, h3⟩
    · rcases List.mem_cons.1 h with rfl | h
      · exact ⟨by simp, by simp, by assumption⟩
      · obtain ⟨h1, h2, h3⟩ := ih h
        exact ⟨by omega, by simp; omega, h3⟩

/-- The cells of a block read as its bytes. -/
theorem Memory.read_cells (a i : Nat) (bs : List Byte) :
    Memory.read (Memory.cells a bs) (a + i) = bs.getD i 0#8 := by
  induction bs generalizing a i with
  | nil => simp [Memory.cells]
  | cons b t ih =>
    rw [Memory.cells]
    cases i with
    | zero =>
      have hu : Memory.read (Memory.cells (a + 1) t) (a + 0) = 0#8 :=
        Memory.read_unlisted fun c hc e => by have := (Memory.mem_cells hc).1; omega
      split
      · rename_i hb; rw [hu]; simp [hb]
      · simp [Memory.read_cons]
    | succ j =>
      have := ih (a + 1) j
      rw [show a + 1 + j = a + (j + 1) by omega] at this
      split
      · rw [this]; simp
      · rw [Memory.read_cons, if_neg (by omega), this]; simp

/-- A read after a block write: the written byte inside the block, the old byte outside. -/
theorem Memory.read_writeBlock (m : Memory) (a : Nat) (bs : List Byte) (x : Nat) :
    (m.writeBlock a bs).read x =
      if a ≤ x ∧ x < a + bs.length then bs.getD (x - a) 0#8 else m.read x := by
  have hlow : ∀ c ∈ m.filter (fun c => decide (c.1 < a)), c.1 < a := fun c hc => by
    simpa using (List.mem_filter.1 hc).2
  have hhigh : ∀ c ∈ m.filter (fun c => decide (a + bs.length ≤ c.1)), a + bs.length ≤ c.1 :=
    fun c hc => by simpa using (List.mem_filter.1 hc).2
  unfold Memory.writeBlock
  split_ifs with h
  · rw [Memory.read_append_left fun c hc e => by have := hhigh c hc; omega,
      Memory.read_append_right fun c hc e => by have := hlow c hc; omega]
    have := Memory.read_cells a (x - a) bs
    rwa [show a + (x - a) = x by omega] at this
  · by_cases hx : x < a
    · rw [Memory.read_append_left fun c hc e => by have := hhigh c hc; omega,
        Memory.read_append_left fun c hc e => by have := (Memory.mem_cells hc).1; omega]
      exact Memory.read_filter (p := fun k => decide (k < a)) (by simpa using hx)
    · rw [Memory.read_append_right fun c hc e => by
        rcases List.mem_append.1 hc with hc | hc
        · have := hlow c hc; omega
        · have := (Memory.mem_cells hc).2.1; omega]
      exact Memory.read_filter (p := fun k => decide (a + bs.length ≤ k)) (by simp; omega)

/-- The cells of a block are in rising order. -/
theorem Memory.cells_sorted (a : Nat) (bs : List Byte) :
    (Memory.cells a bs).Pairwise fun c d => c.1 < d.1 := by
  induction bs generalizing a with
  | nil => simp [Memory.cells]
  | cons b t ih =>
    rw [Memory.cells]
    split
    · exact ih _
    · refine List.pairwise_cons.2 ⟨fun c hc => ?_, ih _⟩
      have := (Memory.mem_cells hc).1
      show a < c.1
      omega

/-- A block write inside the buffer keeps the canonical form. -/
theorem Memory.wf_writeBlock {m : Memory} {a : Nat} {bs : List Byte} (hm : m.wf)
    (h : a + bs.length ≤ frameBytes) : (m.writeBlock a bs).wf := by
  obtain ⟨hs, hc⟩ := hm
  have hlow : ∀ c ∈ m.filter (fun c => decide (c.1 < a)), c.1 < a ∧ c ∈ m := fun c hc =>
    ⟨by simpa using (List.mem_filter.1 hc).2, (List.mem_filter.1 hc).1⟩
  have hhigh : ∀ c ∈ m.filter (fun c => decide (a + bs.length ≤ c.1)),
      a + bs.length ≤ c.1 ∧ c ∈ m := fun c hc =>
    ⟨by simpa using (List.mem_filter.1 hc).2, (List.mem_filter.1 hc).1⟩
  refine ⟨?_, fun c hcm => ?_⟩
  · refine List.pairwise_append.2 ⟨List.pairwise_append.2
      ⟨hs.filter _, Memory.cells_sorted a bs, fun c hc d hd => ?_⟩, hs.filter _, fun c hc d hd => ?_⟩
    · have := (hlow c hc).1; have := (Memory.mem_cells hd).1; omega
    · have h2 := (hhigh d hd).1
      rcases List.mem_append.1 hc with hc | hc
      · have := (hlow c hc).1; omega
      · have := (Memory.mem_cells hc).2.1; omega
  · rcases List.mem_append.1 hcm with hcm | hcm
    · rcases List.mem_append.1 hcm with hcm | hcm
      · exact hc c (hlow c hcm).2
      · obtain ⟨-, h2, h3⟩ := Memory.mem_cells hcm
        exact ⟨by omega, h3⟩
    · exact hc c (hhigh c hcm).2

@[simp] theorem Memory.walk_length (m : Memory) (a n : Nat) : (Memory.walk m a n).length = n := by
  induction n generalizing m a with
  | zero => rw [Memory.walk]; rfl
  | succ n ih =>
    match m with
    | [] => simp [Memory.walk, ih]
    | (k, b) :: rest => rw [Memory.walk]; split <;> simp [ih]

@[simp] theorem Memory.readBlock_length (m : Memory) (a n : Nat) :
    (m.readBlock a n).length = n := Memory.walk_length _ _ _

/-- A walk over cells in rising order, all at `a` or above, reads byte by byte. -/
theorem Memory.walk_getD {m : Memory} {a n i : Nat} (hs : m.Pairwise fun c d => c.1 < d.1)
    (ha : ∀ c ∈ m, a ≤ c.1) (hi : i < n) : (Memory.walk m a n).getD i 0#8 = m.read (a + i) := by
  induction n generalizing m a i with
  | zero => omega
  | succ n ih =>
    match m, hs, ha with
    | [], _, _ =>
      cases i with
      | zero => simp [Memory.walk]
      | succ j =>
        have := ih (m := []) (a := a + 1) (i := j) List.Pairwise.nil (by simp) (by omega)
        simpa [Memory.walk] using this
    | (k, b) :: rest, hs, ha =>
      obtain ⟨hk, hr⟩ := List.pairwise_cons.1 hs
      have hak : a ≤ k := ha (k, b) (by simp)
      rw [Memory.walk]
      split
      · rename_i hka
        cases i with
        | zero => simp [Memory.read_cons, hka]
        | succ j =>
          have h1 := ih (m := rest) (a := a + 1) (i := j) hr
            (fun c hc => by have : k < c.1 := hk c hc; omega) (by omega)
          rw [show a + 1 + j = a + (j + 1) by omega] at h1
          rw [List.getD_cons_succ, h1, Memory.read_cons, if_neg (by omega)]
      · rename_i hka
        cases i with
        | zero =>
          rw [List.getD_cons_zero]
          refine (Memory.read_unlisted fun c hc e => ?_).symm
          rcases List.mem_cons.1 hc with rfl | hc
          · simp at e; omega
          · have : k < c.1 := hk c hc; omega
        | succ j =>
          have h1 := ih (m := (k, b) :: rest) (a := a + 1) (i := j) hs
            (fun c hc => by
              rcases List.mem_cons.1 hc with rfl | hc
              · show a + 1 ≤ k; omega
              · have : k < c.1 := hk c hc; omega) (by omega)
          rw [show a + 1 + j = a + (j + 1) by omega] at h1
          rw [List.getD_cons_succ, h1]

/-- A block read of a canonical buffer reads byte by byte. -/
theorem Memory.readBlock_getD {m : Memory} {a n i : Nat} (hm : m.wf) (hi : i < n) :
    (m.readBlock a n).getD i 0#8 = m.read (a + i) := by
  have hsub : (m.dropWhile fun c => decide (c.1 < a)).Sublist m := List.dropWhile_sublist _
  have hge : ∀ c ∈ m.dropWhile (fun c => decide (c.1 < a)), a ≤ c.1 := by
    have hs := hm.1
    clear hm hsub hi
    induction m with
    | nil => simp
    | cons c t ih =>
      obtain ⟨h1, h2⟩ := List.pairwise_cons.1 hs
      rw [List.dropWhile_cons]
      split
      · exact ih h2
      · rename_i hca
        have hca : a ≤ c.1 := by simpa using hca
        intro d hd
        rcases List.mem_cons.1 hd with rfl | hd
        · exact hca
        · have := h1 d hd; omega
  have hread : Memory.read (m.dropWhile fun c => decide (c.1 < a)) (a + i) = m.read (a + i) := by
    clear hm hge hsub hi
    induction m with
    | nil => rfl
    | cons c t ih =>
      obtain ⟨k, b⟩ := c
      rw [List.dropWhile_cons]
      split
      · rename_i hk
        have hk : k < a := by simpa using hk
        rw [ih, Memory.read_cons, if_neg (by omega)]
      · rfl
  rw [Memory.readBlock, Memory.walk_getD (hm.1.sublist hsub) hge hi, hread]

/-- Two blocks of equal length that read alike are equal. -/
theorem Memory.readBlock_ext {m : Memory} {a n : Nat} {bs : List Byte} (hm : m.wf)
    (hl : bs.length = n) (h : ∀ i < n, m.read (a + i) = bs.getD i 0#8) : m.readBlock a n = bs := by
  refine List.ext_getElem (by simp [hl]) fun i h1 h2 => ?_
  have hi : i < n := by simpa using h1
  have e := Memory.readBlock_getD (a := a) hm hi
  rw [h i hi, List.getD_eq_getElem _ _ h1, List.getD_eq_getElem _ _ h2] at e
  exact e

/-- A block read back from where it was written. -/
theorem Memory.readBlock_writeBlock {m : Memory} {a : Nat} {bs : List Byte} (hm : m.wf)
    (h : a + bs.length ≤ frameBytes) : (m.writeBlock a bs).readBlock a bs.length = bs :=
  Memory.readBlock_ext (Memory.wf_writeBlock hm h) rfl fun i hi => by
    rw [Memory.read_writeBlock, if_pos ⟨by omega, by omega⟩, Nat.add_sub_cancel_left]

/-- A block write leaves a block it does not meet alone. -/
theorem Memory.readBlock_writeBlock_of_disjoint {m : Memory} {a c n : Nat} {bs : List Byte}
    (hm : m.wf) (h : a + bs.length ≤ frameBytes) (hd : c + n ≤ a ∨ a + bs.length ≤ c) :
    (m.writeBlock a bs).readBlock c n = m.readBlock c n :=
  Memory.readBlock_ext (Memory.wf_writeBlock hm h) (by simp) fun i hi => by
    rw [Memory.read_writeBlock, if_neg (by omega), Memory.readBlock_getD hm hi]

/-- The empty buffer is canonical. -/
theorem Memory.wf_nil : Memory.wf [] := ⟨List.Pairwise.nil, by simp⟩

end Sys2Proof.Machine
end

