-- ==== Sys2Proof/Laws/State.lean ====
section
/-! SUPPORT. What each named update leaves in each field of the state, one lemma per field per update. -/

namespace Sys2Proof.Machine

@[simp] theorem emit_cfg (e : Event) (s : State) :
    (emit e s).cfg = s.cfg := rfl
@[simp] theorem emit_opBusy (e : Event) (s : State) :
    (emit e s).opBusy = s.opBusy := rfl
@[simp] theorem emit_chanSel (e : Event) (s : State) :
    (emit e s).chanSel = s.chanSel := rfl
@[simp] theorem emit_ccsState (e : Event) (s : State) :
    (emit e s).ccsState = s.ccsState := rfl
@[simp] theorem emit_faState (e : Event) (s : State) :
    (emit e s).faState = s.faState := rfl
@[simp] theorem emit_opR (e : Event) (s : State) :
    (emit e s).opR = s.opR := rfl
@[simp] theorem emit_regR (e : Event) (s : State) :
    (emit e s).regR = s.regR := rfl
@[simp] theorem emit_cmdIdR (e : Event) (s : State) :
    (emit e s).cmdIdR = s.cmdIdR := rfl
@[simp] theorem emit_cmdLenR (e : Event) (s : State) :
    (emit e s).cmdLenR = s.cmdLenR := rfl
@[simp] theorem emit_valR (e : Event) (s : State) :
    (emit e s).valR = s.valR := rfl
@[simp] theorem emit_payR (e : Event) (s : State) :
    (emit e s).payR = s.payR := rfl
@[simp] theorem emit_payLenR (e : Event) (s : State) :
    (emit e s).payLenR = s.payLenR := rfl
@[simp] theorem emit_statusR (e : Event) (s : State) :
    (emit e s).statusR = s.statusR := rfl
@[simp] theorem emit_rdValR (e : Event) (s : State) :
    (emit e s).rdValR = s.rdValR := rfl
@[simp] theorem emit_scR (e : Event) (s : State) :
    (emit e s).scR = s.scR := rfl
@[simp] theorem emit_pollCnt (e : Event) (s : State) :
    (emit e s).pollCnt = s.pollCnt := rfl
@[simp] theorem emit_syncCnt (e : Event) (s : State) :
    (emit e s).syncCnt = s.syncCnt := rfl
@[simp] theorem emit_pktIdx (e : Event) (s : State) :
    (emit e s).pktIdx = s.pktIdx := rfl
@[simp] theorem emit_crcR (e : Event) (s : State) :
    (emit e s).crcR = s.crcR := rfl
@[simp] theorem emit_scratch (e : Event) (s : State) :
    (emit e s).scratch = s.scratch := rfl
@[simp] theorem emit_fbValid (e : Event) (s : State) :
    (emit e s).fbValid = s.fbValid := rfl
@[simp] theorem emit_trigArmed (e : Event) (s : State) :
    (emit e s).trigArmed = s.trigArmed := rfl
@[simp] theorem emit_trigPending (e : Event) (s : State) :
    (emit e s).trigPending = s.trigPending := rfl
@[simp] theorem emit_fbLock (e : Event) (s : State) :
    (emit e s).fbLock = s.fbLock := rfl
@[simp] theorem emit_asmBuf (e : Event) (s : State) :
    (emit e s).asmBuf = s.asmBuf := rfl
@[simp] theorem emit_fb (e : Event) (s : State) :
    (emit e s).fb = s.fb := rfl
@[simp] theorem emit_sched (e : Event) (s : State) :
    (emit e s).sched = s.sched := rfl
@[simp] theorem emit_opWords (e : Event) (s : State) :
    (emit e s).opWords = s.opWords := rfl
@[simp] theorem emit_opPay (e : Event) (s : State) :
    (emit e s).opPay = s.opPay := rfl
@[simp] theorem emit_cbWriteRsp (e : Event) (s : State) :
    (emit e s).cbWriteRsp = s.cbWriteRsp := rfl
@[simp] theorem emit_cbReadRsp (e : Event) (s : State) :
    (emit e s).cbReadRsp = s.cbReadRsp := rfl
@[simp] theorem emit_dbRsp (e : Event) (s : State) :
    (emit e s).dbRsp = s.dbRsp := rfl
@[simp] theorem emit_stream (e : Event) (s : State) :
    (emit e s).stream = s.stream := rfl
@[simp] theorem emit_timerRsp (e : Event) (s : State) :
    (emit e s).timerRsp = s.timerRsp := rfl
@[simp] theorem emit_trace (e : Event) (s : State) :
    (emit e s).trace = e :: s.trace := rfl

@[simp] theorem accept_cfg (o : Opcode) (s : State) :
    (accept o s).cfg = s.cfg := rfl
@[simp] theorem accept_opBusy (o : Opcode) (s : State) :
    (accept o s).opBusy = true := rfl
@[simp] theorem accept_chanSel (o : Opcode) (s : State) :
    (accept o s).chanSel = chanOf o := rfl
@[simp] theorem accept_ccsState (o : Opcode) (s : State) :
    (accept o s).ccsState = s.ccsState := rfl
@[simp] theorem accept_faState (o : Opcode) (s : State) :
    (accept o s).faState = s.faState := rfl
@[simp] theorem accept_opR (o : Opcode) (s : State) :
    (accept o s).opR = o.byte := rfl
@[simp] theorem accept_regR (o : Opcode) (s : State) :
    (accept o s).regR = s.regR := rfl
@[simp] theorem accept_cmdIdR (o : Opcode) (s : State) :
    (accept o s).cmdIdR = s.cmdIdR := rfl
@[simp] theorem accept_cmdLenR (o : Opcode) (s : State) :
    (accept o s).cmdLenR = s.cmdLenR := rfl
@[simp] theorem accept_valR (o : Opcode) (s : State) :
    (accept o s).valR = s.valR := rfl
@[simp] theorem accept_payR (o : Opcode) (s : State) :
    (accept o s).payR = s.payR := rfl
@[simp] theorem accept_payLenR (o : Opcode) (s : State) :
    (accept o s).payLenR = s.payLenR := rfl
@[simp] theorem accept_statusR (o : Opcode) (s : State) :
    (accept o s).statusR = s.statusR := rfl
@[simp] theorem accept_rdValR (o : Opcode) (s : State) :
    (accept o s).rdValR = s.rdValR := rfl
@[simp] theorem accept_scR (o : Opcode) (s : State) :
    (accept o s).scR = s.scR := rfl
@[simp] theorem accept_pollCnt (o : Opcode) (s : State) :
    (accept o s).pollCnt = s.pollCnt := rfl
@[simp] theorem accept_syncCnt (o : Opcode) (s : State) :
    (accept o s).syncCnt = s.syncCnt := rfl
@[simp] theorem accept_pktIdx (o : Opcode) (s : State) :
    (accept o s).pktIdx = s.pktIdx := rfl
@[simp] theorem accept_crcR (o : Opcode) (s : State) :
    (accept o s).crcR = s.crcR := rfl
@[simp] theorem accept_scratch (o : Opcode) (s : State) :
    (accept o s).scratch = s.scratch := rfl
@[simp] theorem accept_fbValid (o : Opcode) (s : State) :
    (accept o s).fbValid = s.fbValid := rfl
@[simp] theorem accept_trigArmed (o : Opcode) (s : State) :
    (accept o s).trigArmed = s.trigArmed := rfl
@[simp] theorem accept_trigPending (o : Opcode) (s : State) :
    (accept o s).trigPending = s.trigPending := rfl
@[simp] theorem accept_fbLock (o : Opcode) (s : State) :
    (accept o s).fbLock = s.fbLock := rfl
@[simp] theorem accept_asmBuf (o : Opcode) (s : State) :
    (accept o s).asmBuf = s.asmBuf := rfl
@[simp] theorem accept_fb (o : Opcode) (s : State) :
    (accept o s).fb = s.fb := rfl
@[simp] theorem accept_sched (o : Opcode) (s : State) :
    (accept o s).sched = s.sched := rfl
@[simp] theorem accept_opWords (o : Opcode) (s : State) :
    (accept o s).opWords = s.opWords := rfl
@[simp] theorem accept_opPay (o : Opcode) (s : State) :
    (accept o s).opPay = s.opPay := rfl
@[simp] theorem accept_cbWriteRsp (o : Opcode) (s : State) :
    (accept o s).cbWriteRsp = s.cbWriteRsp := rfl
@[simp] theorem accept_cbReadRsp (o : Opcode) (s : State) :
    (accept o s).cbReadRsp = s.cbReadRsp := rfl
@[simp] theorem accept_dbRsp (o : Opcode) (s : State) :
    (accept o s).dbRsp = s.dbRsp := rfl
@[simp] theorem accept_stream (o : Opcode) (s : State) :
    (accept o s).stream = s.stream := rfl
@[simp] theorem accept_timerRsp (o : Opcode) (s : State) :
    (accept o s).timerRsp = s.timerRsp := rfl
@[simp] theorem accept_trace (o : Opcode) (s : State) :
    (accept o s).trace = s.trace := rfl

@[simp] theorem respond_cfg (r : Result) (s : State) :
    (respond r s).cfg = s.cfg := rfl
@[simp] theorem respond_opBusy (r : Result) (s : State) :
    (respond r s).opBusy = false := rfl
@[simp] theorem respond_chanSel (r : Result) (s : State) :
    (respond r s).chanSel = ChanSel.none := rfl
@[simp] theorem respond_ccsState (r : Result) (s : State) :
    (respond r s).ccsState = CcsState.idle := rfl
@[simp] theorem respond_faState (r : Result) (s : State) :
    (respond r s).faState = FaState.idle := rfl
@[simp] theorem respond_opR (r : Result) (s : State) :
    (respond r s).opR = s.opR := rfl
@[simp] theorem respond_regR (r : Result) (s : State) :
    (respond r s).regR = s.regR := rfl
@[simp] theorem respond_cmdIdR (r : Result) (s : State) :
    (respond r s).cmdIdR = s.cmdIdR := rfl
@[simp] theorem respond_cmdLenR (r : Result) (s : State) :
    (respond r s).cmdLenR = s.cmdLenR := rfl
@[simp] theorem respond_valR (r : Result) (s : State) :
    (respond r s).valR = s.valR := rfl
@[simp] theorem respond_payR (r : Result) (s : State) :
    (respond r s).payR = s.payR := rfl
@[simp] theorem respond_payLenR (r : Result) (s : State) :
    (respond r s).payLenR = s.payLenR := rfl
@[simp] theorem respond_statusR (r : Result) (s : State) :
    (respond r s).statusR = s.statusR := rfl
@[simp] theorem respond_rdValR (r : Result) (s : State) :
    (respond r s).rdValR = s.rdValR := rfl
@[simp] theorem respond_scR (r : Result) (s : State) :
    (respond r s).scR = s.scR := rfl
@[simp] theorem respond_pollCnt (r : Result) (s : State) :
    (respond r s).pollCnt = s.pollCnt := rfl
@[simp] theorem respond_syncCnt (r : Result) (s : State) :
    (respond r s).syncCnt = s.syncCnt := rfl
@[simp] theorem respond_pktIdx (r : Result) (s : State) :
    (respond r s).pktIdx = s.pktIdx := rfl
@[simp] theorem respond_crcR (r : Result) (s : State) :
    (respond r s).crcR = s.crcR := rfl
@[simp] theorem respond_scratch (r : Result) (s : State) :
    (respond r s).scratch = s.scratch := rfl
@[simp] theorem respond_fbValid (r : Result) (s : State) :
    (respond r s).fbValid = s.fbValid := rfl
@[simp] theorem respond_trigArmed (r : Result) (s : State) :
    (respond r s).trigArmed = s.trigArmed := rfl
@[simp] theorem respond_trigPending (r : Result) (s : State) :
    (respond r s).trigPending = s.trigPending := rfl
@[simp] theorem respond_fbLock (r : Result) (s : State) :
    (respond r s).fbLock = s.fbLock := rfl
@[simp] theorem respond_asmBuf (r : Result) (s : State) :
    (respond r s).asmBuf = s.asmBuf := rfl
@[simp] theorem respond_fb (r : Result) (s : State) :
    (respond r s).fb = s.fb := rfl
@[simp] theorem respond_sched (r : Result) (s : State) :
    (respond r s).sched = s.sched := rfl
@[simp] theorem respond_opWords (r : Result) (s : State) :
    (respond r s).opWords = s.opWords := rfl
@[simp] theorem respond_opPay (r : Result) (s : State) :
    (respond r s).opPay = s.opPay := rfl
@[simp] theorem respond_cbWriteRsp (r : Result) (s : State) :
    (respond r s).cbWriteRsp = s.cbWriteRsp := rfl
@[simp] theorem respond_cbReadRsp (r : Result) (s : State) :
    (respond r s).cbReadRsp = s.cbReadRsp := rfl
@[simp] theorem respond_dbRsp (r : Result) (s : State) :
    (respond r s).dbRsp = s.dbRsp := rfl
@[simp] theorem respond_stream (r : Result) (s : State) :
    (respond r s).stream = s.stream := rfl
@[simp] theorem respond_timerRsp (r : Result) (s : State) :
    (respond r s).timerRsp = s.timerRsp := rfl
@[simp] theorem respond_trace (r : Result) (s : State) :
    (respond r s).trace = Event.opResponse r.word :: s.trace := rfl

@[simp] theorem lock_cfg (s : State) :
    (lock s).cfg = s.cfg := rfl
@[simp] theorem lock_opBusy (s : State) :
    (lock s).opBusy = s.opBusy := rfl
@[simp] theorem lock_chanSel (s : State) :
    (lock s).chanSel = s.chanSel := rfl
@[simp] theorem lock_ccsState (s : State) :
    (lock s).ccsState = s.ccsState := rfl
@[simp] theorem lock_faState (s : State) :
    (lock s).faState = s.faState := rfl
@[simp] theorem lock_opR (s : State) :
    (lock s).opR = s.opR := rfl
@[simp] theorem lock_regR (s : State) :
    (lock s).regR = s.regR := rfl
@[simp] theorem lock_cmdIdR (s : State) :
    (lock s).cmdIdR = s.cmdIdR := rfl
@[simp] theorem lock_cmdLenR (s : State) :
    (lock s).cmdLenR = s.cmdLenR := rfl
@[simp] theorem lock_valR (s : State) :
    (lock s).valR = s.valR := rfl
@[simp] theorem lock_payR (s : State) :
    (lock s).payR = s.payR := rfl
@[simp] theorem lock_payLenR (s : State) :
    (lock s).payLenR = s.payLenR := rfl
@[simp] theorem lock_statusR (s : State) :
    (lock s).statusR = s.statusR := rfl
@[simp] theorem lock_rdValR (s : State) :
    (lock s).rdValR = s.rdValR := rfl
@[simp] theorem lock_scR (s : State) :
    (lock s).scR = s.scR := rfl
@[simp] theorem lock_pollCnt (s : State) :
    (lock s).pollCnt = s.pollCnt := rfl
@[simp] theorem lock_syncCnt (s : State) :
    (lock s).syncCnt = s.syncCnt := rfl
@[simp] theorem lock_pktIdx (s : State) :
    (lock s).pktIdx = s.pktIdx := rfl
@[simp] theorem lock_crcR (s : State) :
    (lock s).crcR = s.crcR := rfl
@[simp] theorem lock_scratch (s : State) :
    (lock s).scratch = s.scratch := rfl
@[simp] theorem lock_fbValid (s : State) :
    (lock s).fbValid = s.fbValid := rfl
@[simp] theorem lock_trigArmed (s : State) :
    (lock s).trigArmed = s.trigArmed := rfl
@[simp] theorem lock_trigPending (s : State) :
    (lock s).trigPending = s.trigPending := rfl
@[simp] theorem lock_fbLock (s : State) :
    (lock s).fbLock = true := rfl
@[simp] theorem lock_asmBuf (s : State) :
    (lock s).asmBuf = s.asmBuf := rfl
@[simp] theorem lock_fb (s : State) :
    (lock s).fb = s.fb := rfl
@[simp] theorem lock_sched (s : State) :
    (lock s).sched = s.sched := rfl
@[simp] theorem lock_opWords (s : State) :
    (lock s).opWords = s.opWords := rfl
@[simp] theorem lock_opPay (s : State) :
    (lock s).opPay = s.opPay := rfl
@[simp] theorem lock_cbWriteRsp (s : State) :
    (lock s).cbWriteRsp = s.cbWriteRsp := rfl
@[simp] theorem lock_cbReadRsp (s : State) :
    (lock s).cbReadRsp = s.cbReadRsp := rfl
@[simp] theorem lock_dbRsp (s : State) :
    (lock s).dbRsp = s.dbRsp := rfl
@[simp] theorem lock_stream (s : State) :
    (lock s).stream = s.stream := rfl
@[simp] theorem lock_timerRsp (s : State) :
    (lock s).timerRsp = s.timerRsp := rfl
@[simp] theorem lock_trace (s : State) :
    (lock s).trace = s.trace := rfl

@[simp] theorem unlock_cfg (s : State) :
    (unlock s).cfg = s.cfg := rfl
@[simp] theorem unlock_opBusy (s : State) :
    (unlock s).opBusy = s.opBusy := rfl
@[simp] theorem unlock_chanSel (s : State) :
    (unlock s).chanSel = s.chanSel := rfl
@[simp] theorem unlock_ccsState (s : State) :
    (unlock s).ccsState = s.ccsState := rfl
@[simp] theorem unlock_faState (s : State) :
    (unlock s).faState = s.faState := rfl
@[simp] theorem unlock_opR (s : State) :
    (unlock s).opR = s.opR := rfl
@[simp] theorem unlock_regR (s : State) :
    (unlock s).regR = s.regR := rfl
@[simp] theorem unlock_cmdIdR (s : State) :
    (unlock s).cmdIdR = s.cmdIdR := rfl
@[simp] theorem unlock_cmdLenR (s : State) :
    (unlock s).cmdLenR = s.cmdLenR := rfl
@[simp] theorem unlock_valR (s : State) :
    (unlock s).valR = s.valR := rfl
@[simp] theorem unlock_payR (s : State) :
    (unlock s).payR = s.payR := rfl
@[simp] theorem unlock_payLenR (s : State) :
    (unlock s).payLenR = s.payLenR := rfl
@[simp] theorem unlock_statusR (s : State) :
    (unlock s).statusR = s.statusR := rfl
@[simp] theorem unlock_rdValR (s : State) :
    (unlock s).rdValR = s.rdValR := rfl
@[simp] theorem unlock_scR (s : State) :
    (unlock s).scR = s.scR := rfl
@[simp] theorem unlock_pollCnt (s : State) :
    (unlock s).pollCnt = s.pollCnt := rfl
@[simp] theorem unlock_syncCnt (s : State) :
    (unlock s).syncCnt = s.syncCnt := rfl
@[simp] theorem unlock_pktIdx (s : State) :
    (unlock s).pktIdx = s.pktIdx := rfl
@[simp] theorem unlock_crcR (s : State) :
    (unlock s).crcR = s.crcR := rfl
@[simp] theorem unlock_scratch (s : State) :
    (unlock s).scratch = s.scratch := rfl
@[simp] theorem unlock_fbValid (s : State) :
    (unlock s).fbValid = s.fbValid := rfl
@[simp] theorem unlock_trigArmed (s : State) :
    (unlock s).trigArmed = s.trigArmed := rfl
@[simp] theorem unlock_trigPending (s : State) :
    (unlock s).trigPending = s.trigPending := rfl
@[simp] theorem unlock_fbLock (s : State) :
    (unlock s).fbLock = false := rfl
@[simp] theorem unlock_asmBuf (s : State) :
    (unlock s).asmBuf = s.asmBuf := rfl
@[simp] theorem unlock_fb (s : State) :
    (unlock s).fb = s.fb := rfl
@[simp] theorem unlock_sched (s : State) :
    (unlock s).sched = s.sched := rfl
@[simp] theorem unlock_opWords (s : State) :
    (unlock s).opWords = s.opWords := rfl
@[simp] theorem unlock_opPay (s : State) :
    (unlock s).opPay = s.opPay := rfl
@[simp] theorem unlock_cbWriteRsp (s : State) :
    (unlock s).cbWriteRsp = s.cbWriteRsp := rfl
@[simp] theorem unlock_cbReadRsp (s : State) :
    (unlock s).cbReadRsp = s.cbReadRsp := rfl
@[simp] theorem unlock_dbRsp (s : State) :
    (unlock s).dbRsp = s.dbRsp := rfl
@[simp] theorem unlock_stream (s : State) :
    (unlock s).stream = s.stream := rfl
@[simp] theorem unlock_timerRsp (s : State) :
    (unlock s).timerRsp = s.timerRsp := rfl
@[simp] theorem unlock_trace (s : State) :
    (unlock s).trace = s.trace := rfl

@[simp] theorem latchPayload_cfg (p : List Byte) (s : State) :
    (latchPayload p s).cfg = s.cfg := rfl
@[simp] theorem latchPayload_opBusy (p : List Byte) (s : State) :
    (latchPayload p s).opBusy = s.opBusy := rfl
@[simp] theorem latchPayload_chanSel (p : List Byte) (s : State) :
    (latchPayload p s).chanSel = s.chanSel := rfl
@[simp] theorem latchPayload_ccsState (p : List Byte) (s : State) :
    (latchPayload p s).ccsState = s.ccsState := rfl
@[simp] theorem latchPayload_faState (p : List Byte) (s : State) :
    (latchPayload p s).faState = s.faState := rfl
@[simp] theorem latchPayload_opR (p : List Byte) (s : State) :
    (latchPayload p s).opR = s.opR := rfl
@[simp] theorem latchPayload_regR (p : List Byte) (s : State) :
    (latchPayload p s).regR = s.regR := rfl
@[simp] theorem latchPayload_cmdIdR (p : List Byte) (s : State) :
    (latchPayload p s).cmdIdR = s.cmdIdR := rfl
@[simp] theorem latchPayload_cmdLenR (p : List Byte) (s : State) :
    (latchPayload p s).cmdLenR = s.cmdLenR := rfl
@[simp] theorem latchPayload_valR (p : List Byte) (s : State) :
    (latchPayload p s).valR = s.valR := rfl
@[simp] theorem latchPayload_payR (p : List Byte) (s : State) :
    (latchPayload p s).payR = p := rfl
@[simp] theorem latchPayload_payLenR (p : List Byte) (s : State) :
    (latchPayload p s).payLenR = BitVec.ofNat 8 p.length := rfl
@[simp] theorem latchPayload_statusR (p : List Byte) (s : State) :
    (latchPayload p s).statusR = s.statusR := rfl
@[simp] theorem latchPayload_rdValR (p : List Byte) (s : State) :
    (latchPayload p s).rdValR = s.rdValR := rfl
@[simp] theorem latchPayload_scR (p : List Byte) (s : State) :
    (latchPayload p s).scR = s.scR := rfl
@[simp] theorem latchPayload_pollCnt (p : List Byte) (s : State) :
    (latchPayload p s).pollCnt = s.pollCnt := rfl
@[simp] theorem latchPayload_syncCnt (p : List Byte) (s : State) :
    (latchPayload p s).syncCnt = s.syncCnt := rfl
@[simp] theorem latchPayload_pktIdx (p : List Byte) (s : State) :
    (latchPayload p s).pktIdx = s.pktIdx := rfl
@[simp] theorem latchPayload_crcR (p : List Byte) (s : State) :
    (latchPayload p s).crcR = s.crcR := rfl
@[simp] theorem latchPayload_scratch (p : List Byte) (s : State) :
    (latchPayload p s).scratch = s.scratch := rfl
@[simp] theorem latchPayload_fbValid (p : List Byte) (s : State) :
    (latchPayload p s).fbValid = s.fbValid := rfl
@[simp] theorem latchPayload_trigArmed (p : List Byte) (s : State) :
    (latchPayload p s).trigArmed = s.trigArmed := rfl
@[simp] theorem latchPayload_trigPending (p : List Byte) (s : State) :
    (latchPayload p s).trigPending = s.trigPending := rfl
@[simp] theorem latchPayload_fbLock (p : List Byte) (s : State) :
    (latchPayload p s).fbLock = s.fbLock := rfl
@[simp] theorem latchPayload_asmBuf (p : List Byte) (s : State) :
    (latchPayload p s).asmBuf = s.asmBuf := rfl
@[simp] theorem latchPayload_fb (p : List Byte) (s : State) :
    (latchPayload p s).fb = s.fb := rfl
@[simp] theorem latchPayload_sched (p : List Byte) (s : State) :
    (latchPayload p s).sched = s.sched := rfl
@[simp] theorem latchPayload_opWords (p : List Byte) (s : State) :
    (latchPayload p s).opWords = s.opWords := rfl
@[simp] theorem latchPayload_opPay (p : List Byte) (s : State) :
    (latchPayload p s).opPay = s.opPay := rfl
@[simp] theorem latchPayload_cbWriteRsp (p : List Byte) (s : State) :
    (latchPayload p s).cbWriteRsp = s.cbWriteRsp := rfl
@[simp] theorem latchPayload_cbReadRsp (p : List Byte) (s : State) :
    (latchPayload p s).cbReadRsp = s.cbReadRsp := rfl
@[simp] theorem latchPayload_dbRsp (p : List Byte) (s : State) :
    (latchPayload p s).dbRsp = s.dbRsp := rfl
@[simp] theorem latchPayload_stream (p : List Byte) (s : State) :
    (latchPayload p s).stream = s.stream := rfl
@[simp] theorem latchPayload_timerRsp (p : List Byte) (s : State) :
    (latchPayload p s).timerRsp = s.timerRsp := rfl
@[simp] theorem latchPayload_trace (p : List Byte) (s : State) :
    (latchPayload p s).trace = s.trace := rfl

@[simp] theorem latchCommand_cfg (c : Command) (s : State) :
    (latchCommand c s).cfg = s.cfg := rfl
@[simp] theorem latchCommand_opBusy (c : Command) (s : State) :
    (latchCommand c s).opBusy = s.opBusy := rfl
@[simp] theorem latchCommand_chanSel (c : Command) (s : State) :
    (latchCommand c s).chanSel = s.chanSel := rfl
@[simp] theorem latchCommand_ccsState (c : Command) (s : State) :
    (latchCommand c s).ccsState = s.ccsState := rfl
@[simp] theorem latchCommand_faState (c : Command) (s : State) :
    (latchCommand c s).faState = s.faState := rfl
@[simp] theorem latchCommand_opR (c : Command) (s : State) :
    (latchCommand c s).opR = s.opR := rfl
@[simp] theorem latchCommand_regR (c : Command) (s : State) :
    (latchCommand c s).regR = s.regR := rfl
@[simp] theorem latchCommand_cmdIdR (c : Command) (s : State) :
    (latchCommand c s).cmdIdR = c.id := rfl
@[simp] theorem latchCommand_cmdLenR (c : Command) (s : State) :
    (latchCommand c s).cmdLenR = c.len := rfl
@[simp] theorem latchCommand_valR (c : Command) (s : State) :
    (latchCommand c s).valR = s.valR := rfl
@[simp] theorem latchCommand_payR (c : Command) (s : State) :
    (latchCommand c s).payR = s.payR := rfl
@[simp] theorem latchCommand_payLenR (c : Command) (s : State) :
    (latchCommand c s).payLenR = s.payLenR := rfl
@[simp] theorem latchCommand_statusR (c : Command) (s : State) :
    (latchCommand c s).statusR = s.statusR := rfl
@[simp] theorem latchCommand_rdValR (c : Command) (s : State) :
    (latchCommand c s).rdValR = s.rdValR := rfl
@[simp] theorem latchCommand_scR (c : Command) (s : State) :
    (latchCommand c s).scR = s.scR := rfl
@[simp] theorem latchCommand_pollCnt (c : Command) (s : State) :
    (latchCommand c s).pollCnt = s.pollCnt := rfl
@[simp] theorem latchCommand_syncCnt (c : Command) (s : State) :
    (latchCommand c s).syncCnt = s.syncCnt := rfl
@[simp] theorem latchCommand_pktIdx (c : Command) (s : State) :
    (latchCommand c s).pktIdx = s.pktIdx := rfl
@[simp] theorem latchCommand_crcR (c : Command) (s : State) :
    (latchCommand c s).crcR = s.crcR := rfl
@[simp] theorem latchCommand_scratch (c : Command) (s : State) :
    (latchCommand c s).scratch = s.scratch := rfl
@[simp] theorem latchCommand_fbValid (c : Command) (s : State) :
    (latchCommand c s).fbValid = s.fbValid := rfl
@[simp] theorem latchCommand_trigArmed (c : Command) (s : State) :
    (latchCommand c s).trigArmed = s.trigArmed := rfl
@[simp] theorem latchCommand_trigPending (c : Command) (s : State) :
    (latchCommand c s).trigPending = s.trigPending := rfl
@[simp] theorem latchCommand_fbLock (c : Command) (s : State) :
    (latchCommand c s).fbLock = s.fbLock := rfl
@[simp] theorem latchCommand_asmBuf (c : Command) (s : State) :
    (latchCommand c s).asmBuf = s.asmBuf := rfl
@[simp] theorem latchCommand_fb (c : Command) (s : State) :
    (latchCommand c s).fb = s.fb := rfl
@[simp] theorem latchCommand_sched (c : Command) (s : State) :
    (latchCommand c s).sched = s.sched := rfl
@[simp] theorem latchCommand_opWords (c : Command) (s : State) :
    (latchCommand c s).opWords = s.opWords := rfl
@[simp] theorem latchCommand_opPay (c : Command) (s : State) :
    (latchCommand c s).opPay = s.opPay := rfl
@[simp] theorem latchCommand_cbWriteRsp (c : Command) (s : State) :
    (latchCommand c s).cbWriteRsp = s.cbWriteRsp := rfl
@[simp] theorem latchCommand_cbReadRsp (c : Command) (s : State) :
    (latchCommand c s).cbReadRsp = s.cbReadRsp := rfl
@[simp] theorem latchCommand_dbRsp (c : Command) (s : State) :
    (latchCommand c s).dbRsp = s.dbRsp := rfl
@[simp] theorem latchCommand_stream (c : Command) (s : State) :
    (latchCommand c s).stream = s.stream := rfl
@[simp] theorem latchCommand_timerRsp (c : Command) (s : State) :
    (latchCommand c s).timerRsp = s.timerRsp := rfl
@[simp] theorem latchCommand_trace (c : Command) (s : State) :
    (latchCommand c s).trace = s.trace := rfl

@[simp] theorem latchStatusCode_cfg (s : State) :
    (latchStatusCode s).cfg = s.cfg := rfl
@[simp] theorem latchStatusCode_opBusy (s : State) :
    (latchStatusCode s).opBusy = s.opBusy := rfl
@[simp] theorem latchStatusCode_chanSel (s : State) :
    (latchStatusCode s).chanSel = s.chanSel := rfl
@[simp] theorem latchStatusCode_ccsState (s : State) :
    (latchStatusCode s).ccsState = s.ccsState := rfl
@[simp] theorem latchStatusCode_faState (s : State) :
    (latchStatusCode s).faState = s.faState := rfl
@[simp] theorem latchStatusCode_opR (s : State) :
    (latchStatusCode s).opR = s.opR := rfl
@[simp] theorem latchStatusCode_regR (s : State) :
    (latchStatusCode s).regR = s.regR := rfl
@[simp] theorem latchStatusCode_cmdIdR (s : State) :
    (latchStatusCode s).cmdIdR = s.cmdIdR := rfl
@[simp] theorem latchStatusCode_cmdLenR (s : State) :
    (latchStatusCode s).cmdLenR = s.cmdLenR := rfl
@[simp] theorem latchStatusCode_valR (s : State) :
    (latchStatusCode s).valR = s.valR := rfl
@[simp] theorem latchStatusCode_payR (s : State) :
    (latchStatusCode s).payR = s.payR := rfl
@[simp] theorem latchStatusCode_payLenR (s : State) :
    (latchStatusCode s).payLenR = s.payLenR := rfl
@[simp] theorem latchStatusCode_statusR (s : State) :
    (latchStatusCode s).statusR = s.statusR := rfl
@[simp] theorem latchStatusCode_rdValR (s : State) :
    (latchStatusCode s).rdValR = s.rdValR := rfl
@[simp] theorem latchStatusCode_scR (s : State) :
    (latchStatusCode s).scR = statusByte s.statusR := rfl
@[simp] theorem latchStatusCode_pollCnt (s : State) :
    (latchStatusCode s).pollCnt = s.pollCnt := rfl
@[simp] theorem latchStatusCode_syncCnt (s : State) :
    (latchStatusCode s).syncCnt = s.syncCnt := rfl
@[simp] theorem latchStatusCode_pktIdx (s : State) :
    (latchStatusCode s).pktIdx = s.pktIdx := rfl
@[simp] theorem latchStatusCode_crcR (s : State) :
    (latchStatusCode s).crcR = s.crcR := rfl
@[simp] theorem latchStatusCode_scratch (s : State) :
    (latchStatusCode s).scratch = s.scratch := rfl
@[simp] theorem latchStatusCode_fbValid (s : State) :
    (latchStatusCode s).fbValid = s.fbValid := rfl
@[simp] theorem latchStatusCode_trigArmed (s : State) :
    (latchStatusCode s).trigArmed = s.trigArmed := rfl
@[simp] theorem latchStatusCode_trigPending (s : State) :
    (latchStatusCode s).trigPending = s.trigPending := rfl
@[simp] theorem latchStatusCode_fbLock (s : State) :
    (latchStatusCode s).fbLock = s.fbLock := rfl
@[simp] theorem latchStatusCode_asmBuf (s : State) :
    (latchStatusCode s).asmBuf = s.asmBuf := rfl
@[simp] theorem latchStatusCode_fb (s : State) :
    (latchStatusCode s).fb = s.fb := rfl
@[simp] theorem latchStatusCode_sched (s : State) :
    (latchStatusCode s).sched = s.sched := rfl
@[simp] theorem latchStatusCode_opWords (s : State) :
    (latchStatusCode s).opWords = s.opWords := rfl
@[simp] theorem latchStatusCode_opPay (s : State) :
    (latchStatusCode s).opPay = s.opPay := rfl
@[simp] theorem latchStatusCode_cbWriteRsp (s : State) :
    (latchStatusCode s).cbWriteRsp = s.cbWriteRsp := rfl
@[simp] theorem latchStatusCode_cbReadRsp (s : State) :
    (latchStatusCode s).cbReadRsp = s.cbReadRsp := rfl
@[simp] theorem latchStatusCode_dbRsp (s : State) :
    (latchStatusCode s).dbRsp = s.dbRsp := rfl
@[simp] theorem latchStatusCode_stream (s : State) :
    (latchStatusCode s).stream = s.stream := rfl
@[simp] theorem latchStatusCode_timerRsp (s : State) :
    (latchStatusCode s).timerRsp = s.timerRsp := rfl
@[simp] theorem latchStatusCode_trace (s : State) :
    (latchStatusCode s).trace = s.trace := rfl

/-- An error class is a response like any other (R282). -/
@[simp] theorem raise_eq (e : ErrorClass) (s : State) : raise e s = respond (.error e) s := rfl

@[simp] theorem logDiscard_eq (r : Reason) (i : Nat) (s : State) :
    logDiscard r i s = emit (.log (logRecord r i)) s := rfl

@[simp] theorem refuseOp_eq (s : State) :
    refuseOp s = emit (.opResponse (Result.error .illegalOp).word) s := rfl

@[simp] theorem refuseFrame_eq (k : Nat) (s : State) :
    refuseFrame k s = emit (.frameResponse k (Result.error .illegalOp).word []) s := rfl

/-- What a validation latches is `scratch` and `crc_r` and nothing else (R200). -/
theorem latchValidation_eq (p : List Byte) (s : State) :
    latchValidation p s =
      { s with
        scratch := if marked p then s.scratch else maskPacket p
        crcR := if marked p then s.crcR else crc16 (maskPacket p) } := by
  unfold latchValidation
  split <;> rfl

/-- An edge touches the trigger latch and nothing else (R256). -/
theorem edge_eq (s : State) :
    edge s =
      { s with
        trigPending := s.trigArmed || s.trigPending
        trigArmed := false } := by
  unfold edge
  cases s with
  | mk => split <;> simp_all

/-- Every response ends in the idle state (R251, R282). -/
theorem respond_idle (r : Result) (s : State) :
    (respond r s).opBusy = false ∧ (respond r s).chanSel = .none
      ∧ (respond r s).ccsState = .idle ∧ (respond r s).faState = .idle :=
  ⟨rfl, rfl, rfl, rfl⟩

end Sys2Proof.Machine
end

