-- ==== Sys2Proof/Laws/Words.lean ====
section
/-! SUPPORT. The fields of request and response words, the opcode map and the selectors read both ways, and the byte order. -/

namespace Sys2Proof

/-- Every bit of a request word (R90). -/
theorem mkWord_getLsbD (op a plen : Byte) (v0 v1 : Half) (i : Nat) :
    (mkWord op a plen v0 v1).getLsbD i =
      if i < 8 then op.getLsbD i else if i < 16 then a.getLsbD (i - 8)
      else if i < 24 then plen.getLsbD (i - 16) else if i < 32 then false
      else if i < 48 then v0.getLsbD (i - 32) else v1.getLsbD (i - 48) := by
  change BitVec.getLsbD (w := 16 + 16 + 8 + 8 + 8 + 8) (v1 ++ v0 ++ 0#8 ++ plen ++ a ++ op) i = _
  simp only [BitVec.getLsbD_append, BitVec.getLsbD_zero]
  split_ifs <;> first | omega | rfl

@[simp] theorem fieldOp_mkWord (op a plen : Byte) (v0 v1 : Half) :
    fieldOp (mkWord op a plen v0 v1) = op := by
  refine BitVec.eq_of_getLsbD_eq fun i hi => ?_
  simp only [fieldOp, BitVec.getLsbD_extractLsb', mkWord_getLsbD]
  split_ifs <;> first | omega | simp [hi]

@[simp] theorem fieldA_mkWord (op a plen : Byte) (v0 v1 : Half) :
    fieldA (mkWord op a plen v0 v1) = a := by
  refine BitVec.eq_of_getLsbD_eq fun i hi => ?_
  simp only [fieldA, BitVec.getLsbD_extractLsb', mkWord_getLsbD]
  split_ifs <;> first | omega | simp [hi]

@[simp] theorem fieldPlen_mkWord (op a plen : Byte) (v0 v1 : Half) :
    fieldPlen (mkWord op a plen v0 v1) = plen := by
  refine BitVec.eq_of_getLsbD_eq fun i hi => ?_
  simp only [fieldPlen, BitVec.getLsbD_extractLsb', mkWord_getLsbD]
  split_ifs <;> first | omega | simp [hi]

@[simp] theorem fieldZ0_mkWord (op a plen : Byte) (v0 v1 : Half) :
    fieldZ0 (mkWord op a plen v0 v1) = 0#8 := by
  refine BitVec.eq_of_getLsbD_eq fun i hi => ?_
  simp only [fieldZ0, BitVec.getLsbD_extractLsb', mkWord_getLsbD]
  split_ifs <;> first | omega | simp

@[simp] theorem fieldV0_mkWord (op a plen : Byte) (v0 v1 : Half) :
    fieldV0 (mkWord op a plen v0 v1) = v0 := by
  refine BitVec.eq_of_getLsbD_eq fun i hi => ?_
  simp only [fieldV0, BitVec.getLsbD_extractLsb', mkWord_getLsbD]
  split_ifs <;> first | omega | simp [hi]

@[simp] theorem fieldV1_mkWord (op a plen : Byte) (v0 v1 : Half) :
    fieldV1 (mkWord op a plen v0 v1) = v1 := by
  refine BitVec.eq_of_getLsbD_eq fun i hi => ?_
  simp only [fieldV1, BitVec.getLsbD_extractLsb', mkWord_getLsbD]
  split_ifs <;> first | omega | simp [hi]

/-- A word whose `Z0` is zero is made of its other fields (R90). -/
theorem mkWord_fields (w : Word64) (h : fieldZ0 w = 0#8) :
    mkWord (fieldOp w) (fieldA w) (fieldPlen w) (fieldV0 w) (fieldV1 w) = w := by
  refine BitVec.eq_of_getLsbD_eq fun i hi => ?_
  have hz : ∀ j < 8, w.getLsbD (24 + j) = false := fun j hj => by
    have := congrArg (fun b => BitVec.getLsbD b j) h
    simpa [fieldZ0, BitVec.getLsbD_extractLsb', hj] using this
  simp only [mkWord_getLsbD, fieldOp, fieldA, fieldPlen, fieldV0, fieldV1,
    BitVec.getLsbD_extractLsb']
  split_ifs with h8 h16 h24 h32 h48
  · simp [h8]
  · simp [show i - 8 < 8 by omega, show 8 + (i - 8) = i by omega]
  · simp [show i - 16 < 8 by omega, show 16 + (i - 16) = i by omega]
  · have := hz (i - 24) (by omega)
    rw [show 24 + (i - 24) = i by omega] at this
    exact this.symm
  · simp [show i - 32 < 16 by omega, show 32 + (i - 32) = i by omega]
  · simp [show i - 48 < 16 by omega, show 48 + (i - 48) = i by omega]

@[simp] theorem ofByte?_byte (o : Opcode) : Opcode.ofByte? o.byte = some o := by
  cases o with
  | get p => cases p <;> decide
  | set p => cases p <;> decide
  | _ => decide

/-- Only a row's own opcode byte names it (R96). -/
theorem byte_of_ofByte? {b : Byte} {o : Opcode} (h : Opcode.ofByte? b = some o) : o.byte = b := by
  simpa using List.find?_some h

@[simp] theorem ofSelector?_selector (r : Reg) : Reg.ofSelector? r.selector = some r := by
  cases r <;> decide

/-- Only a register's own selector names it (R93). -/
theorem selector_of_ofSelector? {a : Byte} {r : Reg} (h : Reg.ofSelector? a = some r) :
    r.selector = a := by
  simpa using List.find?_some h

namespace Machine

@[simp] theorem latchedReg_selector (r : Reg) : latchedReg r.selector = r := by
  simp [latchedReg]

/-- Every bit of a response word (R92). -/
theorem mkResponse_getLsbD (rc sc : Byte) (scc : BitVec 2) (val : Half) (aux : Byte) (i : Nat) :
    (mkResponse rc sc scc val aux).getLsbD i =
      if i < 8 then rc.getLsbD i else if i < 16 then sc.getLsbD (i - 8)
      else if i < 18 then scc.getLsbD (i - 16) else if i < 32 then false
      else if i < 48 then val.getLsbD (i - 32) else aux.getLsbD (i - 48) := by
  change BitVec.getLsbD (w := 8 + 8 + 16 + 14 + 2 + 8 + 8)
    (0#8 ++ aux ++ val ++ 0#14 ++ scc ++ sc ++ rc) i = _
  simp only [BitVec.getLsbD_append, BitVec.getLsbD_zero]
  split_ifs <;> first | omega | rfl | (symm; exact BitVec.getLsbD_of_ge _ _ (by omega))

/-- The two bytes of a 16-bit value read back as the value (R11, R130). -/
@[simp] theorem be16_toBe16 (v : Half) :
    be16 ((toBe16 v).getD 0 0#8) ((toBe16 v).getD 1 0#8) = v := by
  refine BitVec.eq_of_getLsbD_eq fun i hi => ?_
  simp only [be16, toBe16, List.getD_cons_zero, List.getD_cons_succ]
  rw [BitVec.getLsbD_append]
  split_ifs with h
  · simp [h]
  · simp [show i - 8 < 8 by omega, show 8 + (i - 8) = i by omega]

@[simp] theorem toBe16_length (v : Half) : (toBe16 v).length = 2 := rfl

end Machine

end Sys2Proof
end

