-- ==== Sys2Proof/Laws/Ops.lean ====
section
/-! SUPPORT. One specification per shared operation: the transport primitives by the answer at hand, dispatch, the two loops as unbounded loops, and whose move is next. -/

namespace Sys2Proof.Machine

section Reply

variable {α : Type} {e : ErrorClass} {go : α → State → State} {hold : State}

@[simp] theorem onReply_wait : onReply (.wait : Reply α) hold e go = hold := rfl

@[simp] theorem onReply_err (t : State) :
    onReply (.err t : Reply α) hold e go = raise e t := rfl

@[simp] theorem onReply_ok (a : α) (t : State) : onReply (.ok a t) hold e go = go a t := rfl

end Reply

/-- A write that is not answered (R284 d). -/
theorem writeReg_wait {r : Reg} {p : List Byte} {s : State} (h : s.cbWriteRsp = []) :
    writeReg r p s = .wait := by
  simp [writeReg, ctrlWrite, h]

/-- A write that fails (R140). -/
theorem writeReg_err {r : Reg} {p : List Byte} {s : State} {l : List WriteAnswer}
    (h : s.cbWriteRsp = .err :: l) :
    writeReg r p s = .err { s with
      cbWriteRsp := l
      trace := .ctrlWrite s.cfg.devAddr (addrBytes s.cfg r ++ p) false :: s.trace } := by
  simp [writeReg, ctrlWrite, h, emit]

/-- A write that succeeds (R140). -/
theorem writeReg_ok {r : Reg} {p : List Byte} {s : State} {l : List WriteAnswer}
    (h : s.cbWriteRsp = .ok :: l) :
    writeReg r p s = .ok () { s with
      cbWriteRsp := l
      trace := .ctrlWrite s.cfg.devAddr (addrBytes s.cfg r ++ p) true :: s.trace } := by
  simp [writeReg, ctrlWrite, h, emit]

/-- A read that is not answered (R284 d). -/
theorem readReg_wait {r : Reg} {s : State} (h : s.cbReadRsp = []) : readReg r s = .wait := by
  simp [readReg, ctrlWriteRead, h]

/-- A read that fails (R142). -/
theorem readReg_err {r : Reg} {s : State} {l : List ReadAnswer} (h : s.cbReadRsp = .err :: l) :
    readReg r s = .err { s with
      cbReadRsp := l
      trace := .ctrlWriteRead s.cfg.devAddr (addrBytes s.cfg r) 2 none :: s.trace } := by
  simp [readReg, ctrlWriteRead, h, emit]

/-- A read that succeeds, two bytes most significant first (R142). -/
theorem readReg_ok {r : Reg} {s : State} {b0 b1 : Byte} {l : List ReadAnswer}
    (h : s.cbReadRsp = .ok b0 b1 :: l) :
    readReg r s = .ok (be16 b0 b1) { s with
      cbReadRsp := l
      trace := .ctrlWriteRead s.cfg.devAddr (addrBytes s.cfg r) 2 (some [b0, b1]) :: s.trace } := by
  simp [readReg, ctrlWriteRead, h, emit]

/-- A data read that is not answered, or whose bytes are not all there (R12). -/
theorem dataRead_wait {n : Nat} {s : State} (h : s.dbRsp = []) : dataRead n s = .wait := by
  simp [dataRead, h]

/-- A data read that fails (R261). -/
theorem dataRead_err {n k : Nat} {s : State} {l : List DataAnswer} (h : s.dbRsp = .err k :: l)
    (hk : k ≤ s.stream.length) :
    dataRead n s = .err { s with
      dbRsp := l, stream := s.stream.drop k, trace := .dataRead n false :: s.trace } := by
  simp [dataRead, h, emit, Nat.not_lt.2 hk]

/-- A data read that fills (R12). -/
theorem dataRead_ok {n : Nat} {s : State} {l : List DataAnswer} (h : s.dbRsp = .ok :: l)
    (hn : n ≤ s.stream.length) :
    dataRead n s = .ok (s.stream.take n) { s with
      dbRsp := l, stream := s.stream.drop n, trace := .dataRead n true :: s.trace } := by
  simp [dataRead, h, emit, Nat.not_lt.2 hn]

/-- An operation dispatched while the OP agent is idle runs at once (R252). -/
theorem dispatch_idle {o : Opcode} {run : State → State} {s : State} (h : s.opBusy = false) :
    dispatch o run s = .next (run (accept o s)) := by
  simp [dispatch, h]

/-- A dispatch answers with the operation's run when the OP agent is idle, else with nothing changed
(R252). -/
theorem dispatch_cases {o : Opcode} {run : State → State} {s t : State}
    (h : dispatch o run s = .next t) :
    (s.opBusy = true ∧ t = s) ∨ (s.opBusy = false ∧ t = run (accept o s)) := by
  unfold dispatch at h
  split at h
  · exact .inl ⟨by assumption, by cases h; rfl⟩
  · exact .inr ⟨by simp_all, by cases h; rfl⟩

/-- Every dispatch answers a next state. -/
theorem dispatch_next (o : Opcode) (run : State → State) (s : State) :
    ∃ t, dispatch o run s = .next t := by
  unfold dispatch
  split <;> exact ⟨_, rfl⟩

/-- A poll wait that is not over holds in `C_POLL_WAIT` (R158). -/
theorem pollWait_hold {poll : State → State} {s : State} (h : s.timerRsp = 0) :
    pollWait poll s = { s with ccsState := .pollWait } := by
  simp [pollWait, sleepPoll, h]

/-- A poll wait that is over goes on with the next read (R147, R158). -/
theorem pollWait_over {poll : State → State} {s : State} {n : Nat} (h : s.timerRsp = n + 1) :
    pollWait poll s = poll { s with
      ccsState := .pollWait, timerRsp := n, trace := .sleep s.cfg.pollInterval :: s.trace } := by
  simp [pollWait, sleepPoll, h, emit]

/-- A poll wait ends in one of two ways. -/
theorem pollWait_cases (poll : State → State) (s : State) :
    (s.timerRsp = 0 ∧ pollWait poll s = { s with ccsState := .pollWait })
      ∨ (∃ n, s.timerRsp = n + 1 ∧ pollWait poll s = poll { s with
        ccsState := .pollWait, timerRsp := n
        trace := .sleep s.cfg.pollInterval :: s.trace }) := by
  obtain h | ⟨n, h⟩ : s.timerRsp = 0 ∨ ∃ n, s.timerRsp = n + 1 := by cases s.timerRsp <;> simp
  · exact .inl ⟨h, pollWait_hold h⟩
  · exact .inr ⟨n, h, pollWait_over h⟩

/-- The poll loop read as a loop: one STATUS read, then out, the bound, or the wait (R147, R148). -/
theorem runPoll_eq (s : State) :
    runPoll s = onReply (readReg .status { s with ccsState := .poll }) { s with ccsState := .poll }
      .ctrlBusError fun v t =>
        let u := { t with statusR := v, pollCnt := t.pollCnt + 1 }
        if busyBit v = false then afterPoll u
        else if pollBound u then raise .deviceUnresponsive u
        else pollWait runPoll u := by
  unfold runPoll
  obtain h | ⟨a, l, h⟩ : s.cbReadRsp = [] ∨ ∃ a l, s.cbReadRsp = a :: l := by
    cases s.cbReadRsp <;> simp
  · have hl : s.cbReadRsp.length = 0 := by simp [h]
    rw [hl, pollLoop, readReg_wait (by exact h), onReply_wait]
  · have hl : s.cbReadRsp.length = l.length + 1 := by simp [h]
    rw [hl, pollLoop]
    cases a with
    | err => rw [readReg_err (by exact h)]; rfl
    | ok b0 b1 =>
      rw [readReg_ok (by exact h), onReply_ok, onReply_ok]
      dsimp only
      split_ifs
      · rfl
      · rfl
      · unfold pollWait sleepPoll
        cases s.timerRsp <;> rfl

/-- The synchronisation loop read as a loop (R220 to R223). -/
theorem runSync_eq (s : State) :
    runSync s = if syncBound s then raise .syncExhausted s
      else match dataRead packetBytes { s with faState := .sync } with
        | .wait => { s with faState := .sync }
        | .err t => runSync { t with syncCnt := t.syncCnt + 1 }
        | .ok b t =>
          if lineId b = 0#16 then
            runBulk { t with syncCnt := t.syncCnt + 1, asmBuf := t.asmBuf.writeBlock 0 b }
          else runSync { t with syncCnt := t.syncCnt + 1 } := by
  unfold runSync
  obtain h | ⟨a, l, h⟩ : s.dbRsp = [] ∨ ∃ a l, s.dbRsp = a :: l := by
    cases s.dbRsp <;> simp
  · have hl : s.dbRsp.length = 0 := by simp [h]
    rw [hl, syncLoop, dataRead_wait (by exact h)]
  · have hl : s.dbRsp.length = l.length + 1 := by simp [h]
    rw [hl, syncLoop]
    cases a with
    | err k => simp only [dataRead, h, emit]; split_ifs <;> rfl
    | ok => simp only [dataRead, h, emit]; split_ifs <;> rfl

/-- A step is an edge, a reset, a FRAME request or the OP agent's turn (R21). -/
theorem nextMove_cases (s : State) :
    (s.sched = [] ∧ nextMove s = opTurn s)
      ∨ (∃ l, s.sched = .op :: l ∧ nextMove s = opTurn { s with sched := l })
      ∨ (∃ k w l, s.sched = .frame k w :: l ∧ nextMove s = frameTurn k w s { s with sched := l })
      ∨ (∃ l, s.sched = .edge :: l ∧ nextMove s = .stay (edge { s with sched := l }))
      ∨ (∃ l, s.sched = .reset :: l ∧ nextMove s = .stay (resetCore { s with sched := l })) := by
  cases h : s.sched with
  | nil => exact .inl ⟨rfl, by simp [nextMove, h]⟩
  | cons a l =>
    cases a with
    | op => exact .inr (.inl ⟨l, rfl, by simp [nextMove, h]⟩)
    | frame k w => exact .inr (.inr (.inl ⟨k, w, l, rfl, by simp [nextMove, h]⟩))
    | edge => exact .inr (.inr (.inr (.inl ⟨l, rfl, by simp [nextMove, h]⟩)))
    | reset => exact .inr (.inr (.inr (.inr ⟨l, rfl, by simp [nextMove, h]⟩)))

end Sys2Proof.Machine
end

