-- ==== Sys2Proof/Laws/PerInstr.lean ====
section
/-! SUPPORT. Statements made per operation, about the operation as syntax. -/

namespace Sys2Proof.Laws.WordFields

/-- The fields of an operation's request word are its opcode, its operands and zeros elsewhere (R90). -/
def Statement (i : Instr) : Prop :=
  fieldOp (encode i).word = i.opcode.byte ∧ fieldA (encode i).word = i.selectorField
    ∧ fieldPlen (encode i).word = BitVec.ofNat 8 i.tail.length ∧ fieldZ0 (encode i).word = 0#8
    ∧ fieldV0 (encode i).word = i.v0Field ∧ fieldV1 (encode i).word = i.v1Field

/-- The fields of any operation's word, from the word's layout. -/
theorem of_layout (i : Instr) : Statement i :=
  ⟨fieldOp_mkWord .., fieldA_mkWord .., fieldPlen_mkWord .., fieldZ0_mkWord .., fieldV0_mkWord ..,
    fieldV1_mkWord ..⟩

theorem wrreg (reg : Reg) (payload : List Byte) : Statement (.wrreg reg payload) := of_layout _
theorem rdreg (reg : Reg) : Statement (.rdreg reg) := of_layout _
theorem execute (id len : Half) (payload : List Byte) : Statement (.execute id len payload) := of_layout _
theorem gboot : Statement (.gboot) := of_layout _
theorem gifst : Statement (.gifst) := of_layout _
theorem gstat : Statement (.gstat) := of_layout _
theorem getPhase : Statement (.getPhase) := of_layout _
theorem setPhase (v : Half) : Statement (.setPhase v) := of_layout _
theorem getGpio : Statement (.getGpio) := of_layout _
theorem setGpio (v : Half) : Statement (.setGpio v) := of_layout _
theorem getVsrc : Statement (.getVsrc) := of_layout _
theorem setVsrc (v : Half) : Statement (.setVsrc v) := of_layout _
theorem getVconst : Statement (.getVconst) := of_layout _
theorem setVconst (v : Half) : Statement (.setVconst v) := of_layout _
theorem getTlm : Statement (.getTlm) := of_layout _
theorem setTlm (v : Half) : Statement (.setTlm v) := of_layout _
theorem getAgc : Statement (.getAgc) := of_layout _
theorem setAgc (v : Half) : Statement (.setAgc v) := of_layout _
theorem armtrig : Statement (.armtrig) := of_layout _
theorem waittrig : Statement (.waittrig) := of_layout _
theorem capture : Statement (.capture) := of_layout _
theorem rdframe (k : Nat) : Statement (.rdframe k) := of_layout _
theorem pval (packet : List Byte) : Statement (.pval packet) := of_layout _

end Sys2Proof.Laws.WordFields
end

