-- ==== Sys2Proof/Laws/Runs.lean ====
section
/-! SUPPORT. What a run of the sequencer or of the assembler can do, said once: which state it leaves alone, what it sends out, where it can be found afterwards. -/

namespace Sys2Proof.Machine

/-- The state a run of the control-channel sequencer leaves alone. -/
structure CtrlOnly (s t : State) : Prop where
  cfg : t.cfg = s.cfg
  fbLock : t.fbLock = s.fbLock
  sched : t.sched = s.sched
  opWords : t.opWords = s.opWords
  opPay : t.opPay = s.opPay
  asmBuf : t.asmBuf = s.asmBuf
  fb : t.fb = s.fb
  fbValid : t.fbValid = s.fbValid
  trigArmed : t.trigArmed = s.trigArmed
  trigPending : t.trigPending = s.trigPending
  syncCnt : t.syncCnt = s.syncCnt
  pktIdx : t.pktIdx = s.pktIdx
  crcR : t.crcR = s.crcR
  scratch : t.scratch = s.scratch
  dbRsp : t.dbRsp = s.dbRsp
  stream : t.stream = s.stream
  opR : t.opR = s.opR
  regR : t.regR = s.regR
  cmdIdR : t.cmdIdR = s.cmdIdR
  cmdLenR : t.cmdLenR = s.cmdLenR
  valR : t.valR = s.valR
  payR : t.payR = s.payR
  payLenR : t.payLenR = s.payLenR

theorem CtrlOnly.trans {s t u : State} (h : CtrlOnly s t) (k : CtrlOnly t u) : CtrlOnly s u := by
  constructor
  all_goals first
    | exact k.cfg.trans h.cfg | exact k.fbLock.trans h.fbLock | exact k.sched.trans h.sched
    | exact k.opWords.trans h.opWords | exact k.opPay.trans h.opPay
    | exact k.asmBuf.trans h.asmBuf | exact k.fb.trans h.fb | exact k.fbValid.trans h.fbValid
    | exact k.trigArmed.trans h.trigArmed | exact k.trigPending.trans h.trigPending
    | exact k.syncCnt.trans h.syncCnt | exact k.pktIdx.trans h.pktIdx
    | exact k.crcR.trans h.crcR | exact k.scratch.trans h.scratch | exact k.dbRsp.trans h.dbRsp
    | exact k.stream.trans h.stream | exact k.opR.trans h.opR | exact k.regR.trans h.regR
    | exact k.cmdIdR.trans h.cmdIdR | exact k.cmdLenR.trans h.cmdLenR | exact k.valR.trans h.valR
    | exact k.payR.trans h.payR | exact k.payLenR.trans h.payLenR

/-- The trace has grown by events that all meet `P`. -/
def Grew (P : Event → Prop) (s t : State) : Prop :=
  ∃ new, t.trace = new ++ s.trace ∧ ∀ e ∈ new, P e

theorem Grew.refl {P : Event → Prop} {s t : State} (h : t.trace = s.trace) : Grew P s t :=
  ⟨[], by simp [h], by simp⟩

theorem Grew.one {P : Event → Prop} {s t : State} {e : Event} (h : t.trace = e :: s.trace)
    (he : P e) : Grew P s t :=
  ⟨[e], by simp [h], by simpa using he⟩

theorem Grew.trans {P : Event → Prop} {s t u : State} (h : Grew P s t) (k : Grew P t u) :
    Grew P s u := by
  obtain ⟨n, hn, hp⟩ := h
  obtain ⟨m, hm, hq⟩ := k
  refine ⟨m ++ n, by simp [hm, hn], fun e he => ?_⟩
  rcases List.mem_append.1 he with he | he
  · exact hq e he
  · exact hp e he

theorem Grew.mono {P Q : Event → Prop} {s t : State} (h : Grew P s t) (hpq : ∀ e, P e → Q e) :
    Grew Q s t := by
  obtain ⟨n, hn, hp⟩ := h
  exact ⟨n, hn, fun e he => hpq e (hp e he)⟩

/-- A control-channel event, or a response with an admitted result. -/
inductive CtrlEvent (Q : Result → Prop) : Event → Prop where
  | bus {e : Event} : e.isCtrl = true → CtrlEvent Q e
  | response {r : Result} : Q r → CtrlEvent Q (.opResponse r.word)

/-- The middle of a control-channel run: still in flight on the same channel. -/
structure CtrlGoing (Q : Result → Prop) (s t : State) : Prop where
  only : CtrlOnly s t
  grew : Grew (CtrlEvent Q) s t
  opBusy : t.opBusy = s.opBusy
  chanSel : t.chanSel = s.chanSel
  faState : t.faState = s.faState

/-- Where a control-channel run ends: idle after a response, or holding in one of the states `L`. -/
structure CtrlEnds (Q : Result → Prop) (L : List CcsState) (s t : State) : Prop where
  only : CtrlOnly s t
  grew : Grew (CtrlEvent Q) s t
  place : t.Idle ∨ (t.opBusy = s.opBusy ∧ t.chanSel = s.chanSel ∧ t.faState = s.faState
    ∧ t.ccsState ∈ L)

theorem CtrlGoing.hold {Q : Result → Prop} {L : List CcsState} {s t : State} (h : CtrlGoing Q s t)
    (hL : t.ccsState ∈ L) : CtrlEnds Q L s t :=
  ⟨h.only, h.grew, .inr ⟨h.opBusy, h.chanSel, h.faState, hL⟩⟩

theorem CtrlGoing.trans {Q : Result → Prop} {s t u : State} (h : CtrlGoing Q s t)
    (k : CtrlGoing Q t u) : CtrlGoing Q s u :=
  ⟨h.only.trans k.only, h.grew.trans k.grew, k.opBusy.trans h.opBusy, k.chanSel.trans h.chanSel,
    k.faState.trans h.faState⟩

theorem CtrlGoing.ends {Q : Result → Prop} {L : List CcsState} {s t u : State}
    (h : CtrlGoing Q s t) (k : CtrlEnds Q L t u) : CtrlEnds Q L s u :=
  ⟨h.only.trans k.only, h.grew.trans k.grew, k.place.imp id fun ⟨a, b, c, d⟩ =>
    ⟨a.trans h.opBusy, b.trans h.chanSel, c.trans h.faState, d⟩⟩

theorem CtrlEnds.mono {Q Q' : Result → Prop} {L L' : List CcsState} {s t : State}
    (h : CtrlEnds Q L s t) (hQ : ∀ r, Q r → Q' r) (hL : ∀ c ∈ L, c ∈ L') : CtrlEnds Q' L' s t :=
  ⟨h.only, h.grew.mono fun e he => by
      cases he with
      | bus h => exact .bus h
      | response h => exact .response (hQ _ h),
    h.place.imp id fun ⟨a, b, c, d⟩ => ⟨a, b, c, hL _ d⟩⟩

/-- A response ends the run (R282). -/
theorem ctrlEnds_respond {Q : Result → Prop} {L : List CcsState} {r : Result} {s : State}
    (h : Q r) : CtrlEnds Q L s (respond r s) :=
  ⟨by constructor <;> rfl, .one rfl (.response h), .inl (respond_idle r s)⟩

/-- A register read, whatever the answer (R142, R153). -/
theorem ctrlEnds_onReply_readReg {Q : Result → Prop} {L : List CcsState} {reg : Reg}
    {s hold : State} {go : Half → State → State} (hh : CtrlEnds Q L s hold)
    (hQ : Q (.error .ctrlBusError))
    (hgo : ∀ v t, CtrlGoing Q s t → t.ccsState = s.ccsState → t.statusR = s.statusR →
      t.rdValR = s.rdValR → t.scR = s.scR → t.pollCnt = s.pollCnt →
      t.cbReadRsp.length + 1 = s.cbReadRsp.length → CtrlEnds Q L s (go v t)) :
    CtrlEnds Q L s (onReply (readReg reg s) hold .ctrlBusError go) := by
  obtain h | ⟨a, l, h⟩ : s.cbReadRsp = [] ∨ ∃ a l, s.cbReadRsp = a :: l := by
    cases s.cbReadRsp <;> simp
  · rw [readReg_wait h]; exact hh
  · cases a with
    | err =>
      rw [readReg_err h]
      refine CtrlGoing.ends (t := { s with cbReadRsp := l, trace := _ }) ?_ (ctrlEnds_respond hQ)
      exact ⟨by constructor <;> rfl, .one rfl (.bus rfl), rfl, rfl, rfl⟩
    | ok b0 b1 =>
      rw [readReg_ok h]
      exact hgo _ _ ⟨by constructor <;> rfl, .one rfl (.bus rfl), rfl, rfl, rfl⟩ rfl rfl rfl rfl rfl
        (by simp [h])

/-- A register write, whatever the answer (R140, R153). -/
theorem ctrlEnds_onReply_writeReg {Q : Result → Prop} {L : List CcsState} {reg : Reg}
    {p : List Byte} {s hold : State} {go : Unit → State → State} (hh : CtrlEnds Q L s hold)
    (hQ : Q (.error .ctrlBusError))
    (hgo : ∀ v t, CtrlGoing Q s t → t.ccsState = s.ccsState → t.statusR = s.statusR →
      t.rdValR = s.rdValR → t.scR = s.scR → t.pollCnt = s.pollCnt → CtrlEnds Q L s (go v t)) :
    CtrlEnds Q L s (onReply (writeReg reg p s) hold .ctrlBusError go) := by
  obtain h | ⟨a, l, h⟩ : s.cbWriteRsp = [] ∨ ∃ a l, s.cbWriteRsp = a :: l := by
    cases s.cbWriteRsp <;> simp
  · rw [writeReg_wait h]; exact hh
  · cases a with
    | err =>
      rw [writeReg_err h]
      refine CtrlGoing.ends (t := { s with cbWriteRsp := l, trace := _ }) ?_ (ctrlEnds_respond hQ)
      exact ⟨by constructor <;> rfl, .one rfl (.bus rfl), rfl, rfl, rfl⟩
    | ok =>
      rw [writeReg_ok h]
      exact hgo _ _ ⟨by constructor <;> rfl, .one rfl (.bus rfl), rfl, rfl, rfl⟩ rfl rfl rfl rfl rfl

/-- Entering a sequencer state, and latching what a read gives, leaves the run going. -/
theorem ctrlGoing_latch {Q : Result → Prop} (s : State) (c : CcsState) (st rv : Half) (sc : Byte)
    (n : Nat) : CtrlGoing Q s
      { s with ccsState := c, statusR := st, rdValR := rv, scR := sc, pollCnt := n } :=
  ⟨by constructor <;> rfl, .refl rfl, rfl, rfl, rfl⟩

/-- The results with `RC = OK`. -/
def Result.succeeds (r : Result) : Prop := r.word.extractLsb' 0 8 = 0#8

/-- What an operation that only reads STATUS may end with (R279). -/
def Result.ofStatus (r : Result) : Prop := r.succeeds ∨ r = .error .ctrlBusError

/-- What an operation with a poll loop may end with (R279). -/
def Result.ofPoll (c : Cfg) (r : Result) : Prop :=
  r.ofStatus ∨ (r = .error .deviceUnresponsive ∧ c.maxPolls ≠ none)

theorem succeeds_iff (r : Result) : r.succeeds ↔
    match r with
    | .noUpdate _ _ => False
    | .empty => False
    | .error _ => False
    | _ => True := by
  have key : ∀ (rc sc : Byte) (scc : BitVec 2) (val : Half) (aux : Byte),
      (mkResponse rc sc scc val aux).extractLsb' 0 8 = rc := fun rc sc scc val aux => by
    refine BitVec.eq_of_getLsbD_eq fun i hi => ?_
    simp [hi, mkResponse_getLsbD]
  cases r with
  | error e => cases e <;> simp [Result.succeeds, Result.word, key, ErrorClass.code]
  | _ => simp [Result.succeeds, Result.word, key]

theorem finishStatus_ends (s : State) : CtrlEnds Result.ofStatus [.rdStatus] s (finishStatus s) := by
  have h : ∀ r : Result, r.succeeds → CtrlEnds Result.ofStatus [.rdStatus] s (respond r s) :=
    fun r hr => ctrlEnds_respond (.inl hr)
  have k : ∀ r : Result, r.succeeds →
      CtrlEnds Result.ofStatus [.rdStatus] s (respond r (latchStatusCode s)) := fun r hr =>
    CtrlGoing.ends (ctrlGoing_latch s s.ccsState s.statusR s.rdValR _ s.pollCnt)
      (ctrlEnds_respond (.inl hr))
  unfold finishStatus
  split
  · exact h _ ((succeeds_iff _).2 trivial)
  · exact h _ ((succeeds_iff _).2 trivial)
  · exact k _ ((succeeds_iff _).2 trivial)
  · exact k _ ((succeeds_iff _).2 trivial)

theorem runRdStatus_ends (s : State) : CtrlEnds Result.ofStatus [.rdStatus] s (runRdStatus s) := by
  have h0 := ctrlGoing_latch (Q := Result.ofStatus) s .rdStatus s.statusR s.rdValR s.scR s.pollCnt
  refine h0.ends ?_
  refine ctrlEnds_onReply_readReg ?_ (.inr rfl) fun v t ht _ _ _ _ _ _ => ?_
  · exact CtrlGoing.hold (ctrlGoing_latch _ _ _ _ _ _) (by simp)
  · exact (ht.trans (ctrlGoing_latch t t.ccsState v t.rdValR t.scR t.pollCnt)).ends
      (finishStatus_ends _)

theorem runRdData_ends (s : State) :
    CtrlEnds Result.ofStatus [.rdData, .rdStatus] s (runRdData s) := by
  have h0 := ctrlGoing_latch (Q := Result.ofStatus) s .rdData s.statusR s.rdValR s.scR s.pollCnt
  refine h0.ends ?_
  refine ctrlEnds_onReply_readReg ?_ (.inr rfl) fun v t ht _ _ _ _ _ _ => ?_
  · exact CtrlGoing.hold (ctrlGoing_latch _ _ _ _ _ _) (by simp)
  · exact (ht.trans (ctrlGoing_latch t t.ccsState t.statusR v t.scR t.pollCnt)).ends
      ((runRdStatus_ends _).mono (fun _ h => h) (by simp))

/-- Where an operation with a poll loop can hold after the poll. -/
def tailStates (b : Byte) : List CcsState :=
  match Opcode.ofByte? b with
  | some (.set _) => [.rdStatus]
  | some (.get _) => [.rdData, .rdStatus]
  | _ => []

theorem afterPoll_ends (s : State) : CtrlEnds Result.ofStatus (tailStates s.opR) s (afterPoll s) := by
  have h : CtrlEnds Result.ofStatus [] s (respond .done s) :=
    ctrlEnds_respond (Or.inl ((succeeds_iff _).2 trivial))
  unfold afterPoll tailStates
  cases Opcode.ofByte? s.opR with
  | none => exact h
  | some o =>
    cases o with
    | set p => exact runRdStatus_ends s
    | get p => exact runRdData_ends s
    | _ => exact h

/-- A poll wait holds in `C_POLL_WAIT`, or goes on with the next read. -/
theorem pollWait_ends {c : Cfg} {b : Byte} {poll : State → State} {s : State} (hc : s.cfg = c)
    (ho : s.opR = b) (hp : ∀ u, u.cfg = c → u.opR = b →
      CtrlEnds (Result.ofPoll c) (.poll :: .pollWait :: tailStates b) u (poll u)) :
    CtrlEnds (Result.ofPoll c) (.poll :: .pollWait :: tailStates b) s (pollWait poll s) := by
  rcases pollWait_cases poll s with ⟨-, h⟩ | ⟨n, -, h⟩ <;> rw [h]
  · exact (ctrlGoing_latch s .pollWait s.statusR s.rdValR s.scR s.pollCnt).hold (by simp)
  · refine CtrlGoing.ends ?_ (hp _ hc ho)
    exact ⟨by constructor <;> rfl, .one rfl (.bus rfl), rfl, rfl, rfl⟩

theorem pollLoop_ends {c : Cfg} {b : Byte} (n : Nat) (s : State) (hc : s.cfg = c)
    (ho : s.opR = b) : CtrlEnds (Result.ofPoll c) (.poll :: .pollWait :: tailStates b) s (pollLoop n s) := by
  induction n generalizing s with
  | zero =>
    exact (ctrlGoing_latch s .poll s.statusR s.rdValR s.scR s.pollCnt).hold (by simp)
  | succ n ih =>
    rw [pollLoop]
    have h0 := ctrlGoing_latch (Q := Result.ofPoll c) s .poll s.statusR s.rdValR s.scR s.pollCnt
    refine h0.ends ?_
    refine ctrlEnds_onReply_readReg ?_ (.inl (.inr rfl)) fun v t ht _ _ _ _ _ _ => ?_
    · exact CtrlGoing.hold (ctrlGoing_latch _ _ _ _ _ _) (by simp)
    have hu := ht.trans (ctrlGoing_latch t t.ccsState v t.rdValR t.scR (t.pollCnt + 1))
    have hc' : t.cfg = c := ht.only.cfg.trans hc
    have ho' : t.opR = b := ht.only.opR.trans ho
    dsimp only
    split_ifs with hb hp
    · refine hu.ends ((afterPoll_ends _).mono (fun _ h => .inl h) fun x hx => ?_)
      have : x ∈ tailStates t.opR := hx
      rw [ho'] at this; exact List.mem_cons_of_mem _ (List.mem_cons_of_mem _ this)
    · refine hu.ends (ctrlEnds_respond (.inr ⟨rfl, fun hn => ?_⟩))
      simp [pollBound, hc', hn] at hp
    · exact hu.ends (pollWait_ends hc' ho' fun v hv hw => ih v hv hw)

theorem runPoll_ends {c : Cfg} {b : Byte} (s : State) (hc : s.cfg = c) (ho : s.opR = b) :
    CtrlEnds (Result.ofPoll c) (.poll :: .pollWait :: tailStates b) s (runPoll s) :=
  pollLoop_ends _ s hc ho

theorem runWrCmd_ends {c : Cfg} {b : Byte} (s : State) (hc : s.cfg = c) (ho : s.opR = b) :
    CtrlEnds (Result.ofPoll c) (.wrCmd :: .poll :: .pollWait :: tailStates b) s (runWrCmd s) := by
  have h0 := ctrlGoing_latch (Q := Result.ofPoll c) s .wrCmd s.statusR s.rdValR s.scR s.pollCnt
  refine h0.ends ?_
  refine ctrlEnds_onReply_writeReg ?_ (.inl (.inr rfl)) fun v t ht _ _ _ _ _ => ?_
  · exact CtrlGoing.hold (ctrlGoing_latch _ _ _ _ _ _) (by simp)
  · have := runPoll_ends (c := c) (b := b) { t with pollCnt := 0 } (ht.only.cfg.trans hc) (ht.only.opR.trans ho)
    exact (ht.trans (ctrlGoing_latch t t.ccsState t.statusR t.rdValR t.scR 0)).ends
      (this.mono (fun _ h => h) fun c hc => List.mem_cons_of_mem _ hc)

theorem runWrLen_ends {c : Cfg} {b : Byte} (s : State) (hc : s.cfg = c) (ho : s.opR = b) :
    CtrlEnds (Result.ofPoll c) (.wrLen :: .wrCmd :: .poll :: .pollWait :: tailStates b) s
      (runWrLen s) := by
  have h0 := ctrlGoing_latch (Q := Result.ofPoll c) s .wrLen s.statusR s.rdValR s.scR s.pollCnt
  refine h0.ends ?_
  refine ctrlEnds_onReply_writeReg ?_ (.inl (.inr rfl)) fun v t ht _ _ _ _ _ => ?_
  · exact CtrlGoing.hold (ctrlGoing_latch _ _ _ _ _ _) (by simp)
  · have := runWrCmd_ends (c := c) (b := b) t (ht.only.cfg.trans hc) (ht.only.opR.trans ho)
    exact ht.ends (this.mono (fun _ h => h) fun c hc => List.mem_cons_of_mem _ hc)

theorem runWrData_ends {c : Cfg} {b : Byte} (s : State) (hc : s.cfg = c) (ho : s.opR = b) :
    CtrlEnds (Result.ofPoll c) (.wrData :: .wrLen :: .wrCmd :: .poll :: .pollWait :: tailStates b) s
      (runWrData s) := by
  have h0 := ctrlGoing_latch (Q := Result.ofPoll c) s .wrData s.statusR s.rdValR s.scR s.pollCnt
  refine h0.ends ?_
  refine ctrlEnds_onReply_writeReg ?_ (.inl (.inr rfl)) fun v t ht _ _ _ _ _ => ?_
  · exact CtrlGoing.hold (ctrlGoing_latch _ _ _ _ _ _) (by simp)
  · have := runWrLen_ends (c := c) (b := b) t (ht.only.cfg.trans hc) (ht.only.opR.trans ho)
    exact ht.ends (this.mono (fun _ h => h) fun c hc => List.mem_cons_of_mem _ hc)

theorem runExec_ends {c : Cfg} {b : Byte} (s : State) (hc : s.cfg = c) (ho : s.opR = b) :
    CtrlEnds (Result.ofPoll c) (.wrData :: .wrLen :: .wrCmd :: .poll :: .pollWait :: tailStates b) s
      (runExec s) := by
  unfold runExec
  split
  · exact (runWrLen_ends s hc ho).mono (fun _ h => h) fun c hc => List.mem_cons_of_mem _ hc
  · exact runWrData_ends s hc ho

theorem runWrReg_ends (s : State) : CtrlEnds Result.ofStatus [.wrReg] s (runWrReg s) := by
  have h0 := ctrlGoing_latch (Q := Result.ofStatus) s .wrReg s.statusR s.rdValR s.scR s.pollCnt
  refine h0.ends ?_
  refine ctrlEnds_onReply_writeReg ?_ (.inr rfl) fun v t ht _ _ _ _ _ => ?_
  · exact CtrlGoing.hold (ctrlGoing_latch _ _ _ _ _ _) (by simp)
  · exact ht.ends (ctrlEnds_respond (.inl ((succeeds_iff _).2 trivial)))

theorem runRdReg_ends (s : State) : CtrlEnds Result.ofStatus [.rdReg] s (runRdReg s) := by
  have h0 := ctrlGoing_latch (Q := Result.ofStatus) s .rdReg s.statusR s.rdValR s.scR s.pollCnt
  refine h0.ends ?_
  refine ctrlEnds_onReply_readReg ?_ (.inr rfl) fun v t ht _ _ _ _ _ _ => ?_
  · exact CtrlGoing.hold (ctrlGoing_latch _ _ _ _ _ _) (by simp)
  · exact (ht.trans (ctrlGoing_latch t t.ccsState t.statusR v t.scR t.pollCnt)).ends
      (ctrlEnds_respond (.inl ((succeeds_iff _).2 trivial)))

/-- The state a run of the frame assembler leaves alone. -/
structure DataOnly (s t : State) : Prop where
  cfg : t.cfg = s.cfg
  fbLock : t.fbLock = s.fbLock
  sched : t.sched = s.sched
  opWords : t.opWords = s.opWords
  opPay : t.opPay = s.opPay
  trigArmed : t.trigArmed = s.trigArmed
  trigPending : t.trigPending = s.trigPending
  opR : t.opR = s.opR
  regR : t.regR = s.regR
  cmdIdR : t.cmdIdR = s.cmdIdR
  cmdLenR : t.cmdLenR = s.cmdLenR
  valR : t.valR = s.valR
  payR : t.payR = s.payR
  payLenR : t.payLenR = s.payLenR
  statusR : t.statusR = s.statusR
  rdValR : t.rdValR = s.rdValR
  scR : t.scR = s.scR
  pollCnt : t.pollCnt = s.pollCnt
  cbWriteRsp : t.cbWriteRsp = s.cbWriteRsp
  cbReadRsp : t.cbReadRsp = s.cbReadRsp
  timerRsp : t.timerRsp = s.timerRsp

theorem DataOnly.trans {s t u : State} (h : DataOnly s t) (k : DataOnly t u) : DataOnly s u := by
  constructor
  all_goals first
    | exact k.cfg.trans h.cfg | exact k.fbLock.trans h.fbLock | exact k.sched.trans h.sched
    | exact k.opWords.trans h.opWords | exact k.opPay.trans h.opPay
    | exact k.trigArmed.trans h.trigArmed | exact k.trigPending.trans h.trigPending
    | exact k.opR.trans h.opR | exact k.regR.trans h.regR
    | exact k.cmdIdR.trans h.cmdIdR | exact k.cmdLenR.trans h.cmdLenR | exact k.valR.trans h.valR
    | exact k.payR.trans h.payR | exact k.payLenR.trans h.payLenR
    | exact k.statusR.trans h.statusR | exact k.rdValR.trans h.rdValR | exact k.scR.trans h.scR
    | exact k.pollCnt.trans h.pollCnt | exact k.cbWriteRsp.trans h.cbWriteRsp
    | exact k.cbReadRsp.trans h.cbReadRsp | exact k.timerRsp.trans h.timerRsp

/-- A data-channel event, a LOG record, or a response with an admitted result. -/
inductive DataEvent (Q : Result → Prop) : Event → Prop where
  | bus {e : Event} : e.isData = true → DataEvent Q e
  | log (r : BitVec 16) : DataEvent Q (.log r)
  | response {r : Result} : Q r → DataEvent Q (.opResponse r.word)

/-- What CAPTURE may end with (R279). -/
def Result.ofCapture (c : Cfg) (r : Result) : Prop :=
  r = .updated ∨ (∃ a i, r = .noUpdate a i) ∨ r = .error .dataBusError
    ∨ (r = .error .syncExhausted ∧ c.maxSyncAttempts ≠ none)

/-- The middle of an assembler run: still in flight, nothing published. -/
structure DataGoing (Q : Result → Prop) (s t : State) : Prop where
  only : DataOnly s t
  grew : Grew (DataEvent Q) s t
  opBusy : t.opBusy = s.opBusy
  chanSel : t.chanSel = s.chanSel
  ccsState : t.ccsState = s.ccsState
  fb : t.fb = s.fb
  fbValid : t.fbValid = s.fbValid

theorem DataGoing.trans {Q : Result → Prop} {s t u : State} (h : DataGoing Q s t)
    (k : DataGoing Q t u) : DataGoing Q s u :=
  ⟨h.only.trans k.only, h.grew.trans k.grew, k.opBusy.trans h.opBusy, k.chanSel.trans h.chanSel,
    k.ccsState.trans h.ccsState, k.fb.trans h.fb, k.fbValid.trans h.fbValid⟩

/-- Where an assembler run ends: idle after a response, or holding in one of the states `L`; and the
FrameBuffer is as it was, or `Updated` went out and it is `asm_buf` (R228). -/
structure DataEnds (Q : Result → Prop) (L : List FaState) (s t : State) : Prop where
  only : DataOnly s t
  grew : Grew (DataEvent Q) s t
  place : t.Idle ∨ (t.opBusy = s.opBusy ∧ t.chanSel = s.chanSel ∧ t.ccsState = s.ccsState
    ∧ t.faState ∈ L)
  frame : (t.fb = s.fb ∧ t.fbValid = s.fbValid) ∨ (t.fb = t.asmBuf ∧ t.fbValid = true
    ∧ ∃ mid, t.trace = .opResponse Result.updated.word :: (mid ++ s.trace))

theorem DataGoing.hold {Q : Result → Prop} {L : List FaState} {s t : State} (h : DataGoing Q s t)
    (hL : t.faState ∈ L) : DataEnds Q L s t :=
  ⟨h.only, h.grew, .inr ⟨h.opBusy, h.chanSel, h.ccsState, hL⟩, .inl ⟨h.fb, h.fbValid⟩⟩

theorem DataGoing.ends {Q : Result → Prop} {L : List FaState} {s t u : State}
    (h : DataGoing Q s t) (k : DataEnds Q L t u) : DataEnds Q L s u :=
  ⟨h.only.trans k.only, h.grew.trans k.grew, k.place.imp id fun ⟨a, b, c, d⟩ =>
    ⟨a.trans h.opBusy, b.trans h.chanSel, c.trans h.ccsState, d⟩,
    k.frame.imp (fun ⟨a, b⟩ => ⟨a.trans h.fb, b.trans h.fbValid⟩) fun ⟨a, b, m, hm⟩ => by
      obtain ⟨n, hn, -⟩ := h.grew
      exact ⟨a, b, m ++ n, by rw [hm, hn, List.append_assoc]⟩⟩

theorem DataEnds.mono {Q : Result → Prop} {L L' : List FaState} {s t : State}
    (h : DataEnds Q L s t) (hL : ∀ c ∈ L, c ∈ L') : DataEnds Q L' s t :=
  ⟨h.only, h.grew, h.place.imp id fun ⟨a, b, c, d⟩ => ⟨a, b, c, hL _ d⟩, h.frame⟩

/-- A response ends the run (R282). -/
theorem dataEnds_respond {Q : Result → Prop} {L : List FaState} {r : Result} {s : State}
    (h : Q r) : DataEnds Q L s (respond r s) :=
  ⟨by constructor <;> rfl, .one rfl (.response h), .inl (respond_idle r s), .inl ⟨rfl, rfl⟩⟩

/-- Changes to the assembler's own latches and buffer leave the run going. -/
theorem dataGoing_latch {Q : Result → Prop} (s : State) (f : FaState) (m : Memory) (n : Nat)
    (i : BitVec 6) (sc : List Byte) (c : Half) : DataGoing Q s
      { s with faState := f, asmBuf := m, syncCnt := n, pktIdx := i, scratch := sc, crcR := c } :=
  ⟨by constructor <;> rfl, .refl rfl, rfl, rfl, rfl, rfl, rfl⟩

/-- Where a publication or the validation can hold: only while another agent has the lock (R72). -/
def lockStates (b : Bool) : List FaState := if b = true then [.publish] else []

theorem runPublish_ends (s : State) :
    DataEnds (Result.ofCapture s.cfg) (lockStates s.fbLock) s (runPublish s) := by
  unfold runPublish
  split
  · rename_i h
    exact (dataGoing_latch s .publish s.asmBuf s.syncCnt s.pktIdx s.scratch s.crcR).hold
      (by simp [lockStates, h])
  · rename_i h
    have h : s.fbLock = false := by simpa using h
    exact ⟨by constructor <;> first | rfl | exact h.symm, .one rfl (.response (.inl rfl)),
      .inl (respond_idle _ _), .inr ⟨rfl, rfl, [], rfl⟩⟩

theorem validateFrom_ends {c : Cfg} {b : Bool} (n i : Nat) (s : State) (hc : s.cfg = c)
    (hl : s.fbLock = b) : DataEnds (Result.ofCapture c) (lockStates b) s (validateFrom n i s) := by
  induction n generalizing i s with
  | zero => subst hc hl; exact runPublish_ends s
  | succ n ih =>
    rw [validateFrom]
    have hg : DataGoing (Result.ofCapture c) s (latchValidation (s.asmBuf.packet i)
        { s with faState := .validate, pktIdx := BitVec.ofNat 6 i }) := by
      rw [latchValidation_eq]
      exact dataGoing_latch s _ s.asmBuf s.syncCnt _ _ _
    have hc' := hg.only.cfg.trans hc
    have hl' := hg.only.fbLock.trans hl
    split
    · exact hg.ends (ih _ _ hc' hl')
    · rename_i r hr
      refine hg.ends (DataGoing.ends (t := logDiscard r i _) ?_
        (dataEnds_respond (.inr (.inl ⟨_, _, rfl⟩))))
      exact ⟨by constructor <;> rfl, .one rfl (.log _), rfl, rfl, rfl, rfl, rfl⟩

/-- A data read, whatever the answer. -/
theorem dataRead_cases (n : Nat) (s : State) :
    dataRead n s = .wait
      ∨ (∃ k l, s.dbRsp = .err k :: l ∧ k ≤ s.stream.length ∧ dataRead n s = .err { s with
        dbRsp := l, stream := s.stream.drop k, trace := .dataRead n false :: s.trace })
      ∨ (∃ l, s.dbRsp = .ok :: l ∧ n ≤ s.stream.length ∧ dataRead n s = .ok (s.stream.take n)
        { s with dbRsp := l, stream := s.stream.drop n, trace := .dataRead n true :: s.trace }) := by
  obtain h | ⟨a, l, h⟩ : s.dbRsp = [] ∨ ∃ a l, s.dbRsp = a :: l := by
    cases s.dbRsp <;> simp
  · exact .inl (dataRead_wait h)
  · cases a with
    | err k =>
      by_cases hk : k ≤ s.stream.length
      · exact .inr (.inl ⟨k, l, h, hk, dataRead_err h hk⟩)
      · exact .inl (by simp [dataRead, h, Nat.lt_of_not_le hk])
    | ok =>
      by_cases hn : n ≤ s.stream.length
      · exact .inr (.inr ⟨l, h, hn, dataRead_ok h hn⟩)
      · exact .inl (by simp [dataRead, h, Nat.lt_of_not_le hn])

theorem runBulk_ends {c : Cfg} {b : Bool} (s : State) (hc : s.cfg = c) (hl : s.fbLock = b) :
    DataEnds (Result.ofCapture c) (.bulk :: lockStates b) s (runBulk s) := by
  unfold runBulk
  have h0 : DataGoing (Result.ofCapture c) s { s with faState := .bulk } :=
    dataGoing_latch s .bulk s.asmBuf s.syncCnt s.pktIdx s.scratch s.crcR
  rcases dataRead_cases bulkBytes { s with faState := .bulk } with h | ⟨k, l, -, -, h⟩ | ⟨l, -, -, h⟩
  · rw [h]; exact h0.hold (by simp)
  · rw [h]
    refine h0.ends (DataGoing.ends (t := { s with
      faState := .bulk, dbRsp := l, stream := _, trace := _ }) ?_
      (dataEnds_respond (.inr (.inr (.inl rfl)))))
    exact ⟨by constructor <;> rfl, .one rfl (.bus rfl), rfl, rfl, rfl, rfl, rfl⟩
  · rw [h]
    refine h0.ends (DataGoing.ends (t := { s with
      faState := .bulk, dbRsp := l, stream := _, trace := _, asmBuf := _ }) ?_
      ((validateFrom_ends (b := b) _ _ _ (by exact hc) (by exact hl)).mono fun _ h =>
        List.mem_cons_of_mem _ h))
    exact ⟨by constructor <;> rfl, .one rfl (.bus rfl), rfl, rfl, rfl, rfl, rfl⟩

theorem runSync_ends {c : Cfg} {b : Bool} (s : State) (hc : s.cfg = c) (hl : s.fbLock = b) :
    DataEnds (Result.ofCapture c) (.sync :: .bulk :: lockStates b) s (runSync s) := by
  have bound : ∀ s : State, s.cfg = c → syncBound s = true →
      DataEnds (Result.ofCapture c) (.sync :: .bulk :: lockStates b) s
        (raise .syncExhausted s) := fun s hc hb => by
    refine dataEnds_respond (.inr (.inr (.inr ⟨rfl, fun hn => ?_⟩)))
    simp [syncBound, hc, hn] at hb
  have hold : ∀ s : State, DataEnds (Result.ofCapture c) (.sync :: .bulk :: lockStates b) s
      { s with faState := .sync } := fun s =>
    (dataGoing_latch s .sync s.asmBuf s.syncCnt s.pktIdx s.scratch s.crcR).hold (by simp)
  unfold runSync
  generalize s.dbRsp.length = n
  induction n generalizing s with
  | zero =>
    rw [syncLoop]
    split
    · exact bound s hc (by assumption)
    · exact hold s
  | succ n ih =>
    rw [syncLoop]
    split
    · exact bound s hc (by assumption)
    rcases dataRead_cases packetBytes { s with faState := .sync } with
      h | ⟨k, l, -, -, h⟩ | ⟨l, -, -, h⟩
    · rw [h]; exact hold s
    · rw [h]
      refine DataGoing.ends ?_ (ih _ hc hl)
      exact ⟨by constructor <;> rfl, .one rfl (.bus rfl), rfl, rfl, rfl, rfl, rfl⟩
    · rw [h]
      dsimp only
      split
      · refine DataGoing.ends ?_ ((runBulk_ends (b := b) _ (by exact hc) (by exact hl)).mono fun _ h =>
          List.mem_cons_of_mem _ h)
        exact ⟨by constructor <;> rfl, .one rfl (.bus rfl), rfl, rfl, rfl, rfl, rfl⟩
      · refine DataGoing.ends ?_ (ih _ hc hl)
        exact ⟨by constructor <;> rfl, .one rfl (.bus rfl), rfl, rfl, rfl, rfl, rfl⟩

end Sys2Proof.Machine
end

