-- ==== Sys2Proof/Tests/Slice0.lean ====
section
/-! SUPPORT. Tests against the vectors of 95_test_vectors.md and the encodings of 30_encoding.md, and for every statement with hypotheses a state and operands that meet them. -/

namespace Sys2Proof.Tests

open Sys2Proof Sys2Proof.Machine Sys2Proof.Claims

/-- An idle core with these answers of the control bus and two expiries of the interval timer to come. -/
def idle (ws : List WriteAnswer) (rs : List ReadAnswer) : State :=
  { State.reset with cbWriteRsp := ws, cbReadRsp := rs, timerRsp := 2 }

/-- An idle core with these answers and bytes of the data bus to come. -/
def streaming (ds : List DataAnswer) (bytes : List Byte) : State :=
  { State.reset with dbRsp := ds, stream := bytes }

/-- A core that holds in WAITTRIG (V80). -/
def waiting : State := { State.reset with opBusy := true, opR := 0x31#8 }

/-- An idle core with this request next at the OP port. -/
def offered (w : Word64) (tail : List Byte) : State :=
  { State.reset with sched := [.op], opWords := [w], opPay := tail }

/-- The state an outcome answers. -/
def after : Host.Outcome State Fault Refusal → State
  | .next t => t
  | .fault _ => State.reset
  | .refused _ => State.reset

/-- What an outcome has sent out, newest first. -/
def sent (o : Host.Outcome State Fault Refusal) : List Event := (after o).trace

/-- The profile with both bounds set. -/
def bounded (polls attempts : Nat) : Cfg :=
  { Cfg.profile with maxPolls := some polls, maxSyncAttempts := some attempts }

/-- `mk(0x0E00, 160 x 0x00)`: accepted, and one flip away from a marked packet. -/
def packet0E : List Byte := [0x0E#8, 0x00#8, 0x80#8, 0x50#8] ++ List.replicate 160 0x00#8

/-- `G(5)` of 95_test_vectors.md 2.2. -/
def packetG5 : List Byte :=
  [0x00#8, 0x05#8, 0x50#8, 0x5F#8] ++ (List.range 160).map fun j => BitVec.ofNat 8 (5 + j)

/-- The all-zero packet (V7). -/
def zeros : List Byte := List.replicate 164 0x00#8

/-! ### WellFormed: one ill-formed term for each check, and its legal neighbour -/

theorem test_wf_wrreg :
    (Instr.wrreg .data0 (List.replicate 33 0#8)).wf Cfg.profile = false
      ∧ (Instr.wrreg .data0 (List.replicate 32 0#8)).wf Cfg.profile = true := by decide

theorem test_wf_execute :
    (Instr.execute 0#16 0#16 (List.replicate 33 0#8)).wf Cfg.profile = false
      ∧ (Instr.execute 0#16 0#16 (List.replicate 32 0#8)).wf Cfg.profile = true := by decide

theorem test_wf_rdframe :
    (Instr.rdframe 1).wf Cfg.profile = false ∧ (Instr.rdframe 0).wf Cfg.profile = true := by decide

theorem test_wf_pval :
    (Instr.pval (List.replicate 163 0#8)).wf Cfg.profile = false
      ∧ (Instr.pval (List.replicate 164 0#8)).wf Cfg.profile = true := by decide +kernel

theorem test_cfg_wf_rejects_equal_ids :
    ¬ { Cfg.profile with cmdTable := { Cfg.profile.cmdTable with
      agc := ⟨⟨0x0100#16, 2#16⟩, ⟨0x0100#16, 2#16⟩⟩ } }.WF := by decide

/-! ### Decoding: words written out from R90 to R96 (V31 to V47, V81 to V86) -/

/-- What the decoder reads on the OP port under the reset configuration. -/
def read (w : Word64) (tail : List Byte) : Except DecodeError Instr :=
  decode Cfg.profile ⟨.op, w, tail⟩

theorem test_decode_wrreg :
    read 0x0000000000020401#64 [0xFF#8, 0xFD#8] = .ok (.wrreg .data0 [0xFF#8, 0xFD#8])
      ∧ read 0x0000000000000301#64 [] = .ok (.wrreg .length []) := by decide

theorem test_decode_rdreg :
    read 0x0000000000000102#64 [] = .ok (.rdreg .status)
      ∧ read 0x0000000000000002#64 [] = .ok (.rdreg .power) := by decide

theorem test_decode_execute :
    read 0x0002123400020003#64 [0xAB#8, 0xCD#8]
        = .ok (.execute 0x1234#16 0x0002#16 [0xAB#8, 0xCD#8])
      ∧ read 0xFFFFFFFF00000003#64 [] = .ok (.execute 0xFFFF#16 0xFFFF#16 []) := by decide

theorem test_decode_status_queries :
    read 0x0000000000000004#64 [] = .ok .gboot ∧ read 0x0000000000000005#64 [] = .ok .gifst
      ∧ read 0x0000000000000006#64 [] = .ok .gstat := by decide

theorem test_decode_get :
    read 0x0000000000000010#64 [] = .ok .getPhase ∧ read 0x0000000000000012#64 [] = .ok .getGpio
      ∧ read 0x0000000000000014#64 [] = .ok .getVsrc
      ∧ read 0x0000000000000016#64 [] = .ok .getVconst
      ∧ read 0x0000000000000018#64 [] = .ok .getTlm
      ∧ read 0x000000000000001A#64 [] = .ok .getAgc := by decide

theorem test_decode_set :
    read 0x0000FFFD00000011#64 [] = .ok (.setPhase 0xFFFD#16)
      ∧ read 0x0000000500000013#64 [] = .ok (.setGpio 5#16)
      ∧ read 0x0000000100000015#64 [] = .ok (.setVsrc 1#16)
      ∧ read 0x0000123400000017#64 [] = .ok (.setVconst 0x1234#16)
      ∧ read 0x0000000100000019#64 [] = .ok (.setTlm 1#16)
      ∧ read 0x000000010000001B#64 [] = .ok (.setAgc 1#16) := by decide

theorem test_decode_trigger_and_capture :
    read 0x0000000000000030#64 [] = .ok .armtrig ∧ read 0x0000000000000031#64 [] = .ok .waittrig
      ∧ read 0x0000000000000040#64 [] = .ok .capture := by decide

theorem test_decode_rdframe :
    decode Cfg.profile ⟨.frame 0, 0x0000000000000041#64, []⟩ = .ok (.rdframe 0)
      ∧ decode { Cfg.profile with nReaders := 4 } ⟨.frame 3, 0x0000000000000041#64, []⟩
        = .ok (.rdframe 3) := by decide

theorem test_decode_pval : read 0x0000000000A40042#64 zeros = .ok (.pval zeros) := by
  decide +kernel

theorem test_illegal_unknown_opcode :
    read 0x0000000000000000#64 [] = .error .unknownOpcode
      ∧ read 0x00000000000000FF#64 [] = .error .unknownOpcode
      ∧ read 0x0000000000000007#64 [] = .error .unknownOpcode
      ∧ read 0x000000000000001C#64 [] = .error .unknownOpcode
      ∧ read 0x0000000000000043#64 [] = .error .unknownOpcode := by decide

theorem test_illegal_unused_field :
    read 0x0000000100000004#64 [] = .error .unusedField
      ∧ read 0x0000000001000004#64 [] = .error .unusedField
      ∧ read 0x0001000000000011#64 [] = .error .unusedField
      ∧ read 0x0000000000000140#64 [] = .error .unusedField
      ∧ read 0x0000000000010102#64 [] = .error .unusedField := by decide

theorem test_illegal_selector :
    read 0x0000000000000502#64 [] = .error .badSelector
      ∧ read 0x000000000002FF01#64 [0#8, 0#8] = .error .badSelector := by decide

theorem test_illegal_payload_length :
    read 0x0000000000210401#64 (List.replicate 33 0#8) = .error .payloadTooLong
      ∧ read 0x0002123400210003#64 (List.replicate 33 0#8) = .error .payloadTooLong
      ∧ read 0x0000000000200401#64 (List.replicate 32 0#8)
        = .ok (.wrreg .data0 (List.replicate 32 0#8)) := by decide

theorem test_illegal_packet_length :
    read 0x0000000000A30042#64 (List.replicate 163 0#8) = .error .packetLength
      ∧ read 0x0000000000000042#64 [] = .error .packetLength := by decide +kernel

theorem test_illegal_port :
    read 0x0000000000000041#64 [] = .error .wrongPort
      ∧ decode Cfg.profile ⟨.frame 0, 0x0000000000000004#64, []⟩ = .error .wrongPort := by decide

/-! ### Pure functions (V1 to V8, V13 to V15) -/

theorem test_byte_order :
    be16 0xFF#8 0xFD#8 = 0xFFFD#16 ∧ toBe16 0x1234#16 = [0x12#8, 0x34#8] ∧ sext8 0x80#8 = -128
      ∧ sext8 0x7F#8 = 127 ∧ sext8 0xFE#8 = -2 ∧ u16 (-3) = 0xFFFD#16 ∧ u16 (-32768) = 0x8000#16
      ∧ s16 0xFFFD#16 = -3 ∧ s16 0x8000#16 = -32768 ∧ s16 0x7FFF#16 = 32767 := by decide

theorem test_crc_vectors :
    crc16 [0x31#8, 0x32#8, 0x33#8, 0x34#8, 0x35#8, 0x36#8, 0x37#8, 0x38#8, 0x39#8] = 0x31C3#16
      ∧ crc16 [0x01#8] = 0x1021#16 ∧ crc16 [0x80#8] = 0x9188#16
      ∧ crc16 [0x00#8, 0x01#8] = 0x1021#16 := by decide +kernel

theorem test_validate_zero_ones_G5 :
    validate zeros = .accept ∧ validate (List.replicate 164 0xFF#8) = .discard .marked
      ∧ validate packetG5 = .accept ∧ validate packet0E = .accept := by
  simp only [validate_eq]; decide +kernel

theorem test_validate_corrupted_G5 :
    validate (packetG5.set 0 0xA0#8) = .accept
      ∧ validate (packetG5.set 100 0x75#8) = .discard .checksum
      ∧ validate (packetG5.set 3 0x5E#8) = .discard .checksum
      ∧ validate (packetG5.set 0 0x1F#8) = .discard .marked := by
  simp only [validate_eq]; decide +kernel

theorem test_log_record :
    logRecord .marked 37 = 0x0125#16 ∧ logRecord .checksum 59 = 0x023B#16
      ∧ (Result.noUpdate .checksum 59).word = 0x0002003B00000005#64 := by decide

/-! ### One step of each operation (V21 to V47, V62, V70 to V77) -/

theorem test_wrreg :
    sent (exec (.wrreg .data0 [0xFF#8, 0xFD#8]) (idle [.ok] []))
        = [.opResponse 0#64, .ctrlWrite 0x2A#7 [0x00#8, 0x08#8, 0xFF#8, 0xFD#8] true]
      ∧ sent (exec (.wrreg .command [0x48#8, 0x59#8]) (idle [.err] []))
        = [.opResponse 1#64, .ctrlWrite 0x2A#7 [0x00#8, 0x04#8, 0x48#8, 0x59#8] false] := by decide

theorem test_rdreg :
    sent (exec (.rdreg .data0) (idle [] [.ok 0xFF#8 0xFD#8]))
        = [.opResponse 0x0000FFFD00000000#64,
          .ctrlWriteRead 0x2A#7 [0x00#8, 0x08#8] 2 (some [0xFF#8, 0xFD#8])]
      ∧ sent (exec (.rdreg .power) (idle [] [.err]))
        = [.opResponse 1#64, .ctrlWriteRead 0x2A#7 [0x00#8, 0x00#8] 2 none] := by decide

theorem test_execute_three_polls :
    (after (exec (.execute 0x1234#16 2#16 [0xAB#8, 0xCD#8])
        (idle [.ok, .ok, .ok] [.ok 0#8 3#8, .ok 0#8 3#8, .ok 0#8 2#8]))).pollCnt = 3
      ∧ (sent (exec (.execute 0x1234#16 2#16 [0xAB#8, 0xCD#8])
        (idle [.ok, .ok, .ok] [.ok 0#8 3#8, .ok 0#8 3#8, .ok 0#8 2#8]))).length = 9 := by decide

theorem test_execute_corner_cases :
    (sent (exec (.execute 0x0100#16 2#16 [])
        { idle [.ok, .ok] [.ok 0#8 1#8] with cfg := bounded 1 1 })).head? = some (.opResponse 3#64)
      ∧ (sent (exec (.execute 0x0100#16 2#16 [])
        { idle [.ok, .ok] [.ok 0xFE#8 2#8] with cfg := bounded 1 1 })).head?
        = some (.opResponse 0#64) := by decide

theorem test_gboot_truth_table :
    (sent (exec .gboot (idle [] [.ok 0#8 1#8]))).head? = some (.opResponse 0#64)
      ∧ (sent (exec .gboot (idle [] [.ok 0#8 2#8]))).head? = some (.opResponse 0x100000000#64)
      ∧ (sent (exec .gboot (idle [] [.ok 0xFF#8 0xFC#8]))).head? = some (.opResponse 0#64) := by
  decide

theorem test_gifst_truth_table :
    (sent (exec .gifst (idle [] [.ok 0#8 1#8]))).head? = some (.opResponse 0#64)
      ∧ (sent (exec .gifst (idle [] [.ok 0#8 2#8]))).head? = some (.opResponse 0x100000000#64)
      ∧ (sent (exec .gifst (idle [] [.ok 0xFF#8 0xFC#8]))).head?
        = some (.opResponse 0x100000000#64) := by decide

theorem test_gstat_classes :
    (sent (exec .gstat (idle [] [.ok 0#8 3#8]))).head? = some (.opResponse 0x10000#64)
      ∧ (sent (exec .gstat (idle [] [.ok 0xFE#8 2#8]))).head? = some (.opResponse 0x2FE00#64)
      ∧ (sent (exec .gstat (idle [] [.ok 0x05#8 0#8]))).head? = some (.opResponse 0x30500#64) := by
  decide

theorem test_set_phase_trace :
    sent (exec (.setPhase 0xFFFD#16)
        (idle [.ok, .ok, .ok] [.ok 0#8 3#8, .ok 0#8 2#8, .ok 0#8 2#8]))
      = [.opResponse 0x10000#64,
        .ctrlWriteRead 0x2A#7 [0x00#8, 0x02#8] 2 (some [0#8, 2#8]),
        .ctrlWriteRead 0x2A#7 [0x00#8, 0x02#8] 2 (some [0#8, 2#8]), .sleep 1000,
        .ctrlWriteRead 0x2A#7 [0x00#8, 0x02#8] 2 (some [0#8, 3#8]),
        .ctrlWrite 0x2A#7 [0x00#8, 0x04#8, 0x48#8, 0x59#8] true,
        .ctrlWrite 0x2A#7 [0x00#8, 0x06#8, 0x00#8, 0x02#8] true,
        .ctrlWrite 0x2A#7 [0x00#8, 0x08#8, 0xFF#8, 0xFD#8] true] := by decide

theorem test_get_phase_trace :
    sent (exec .getPhase (idle [.ok, .ok] [.ok 0#8 2#8, .ok 0xFF#8 0xFD#8, .ok 0#8 2#8]))
      = [.opResponse 0x0000FFFD00010000#64,
        .ctrlWriteRead 0x2A#7 [0x00#8, 0x02#8] 2 (some [0#8, 2#8]),
        .ctrlWriteRead 0x2A#7 [0x00#8, 0x08#8] 2 (some [0xFF#8, 0xFD#8]),
        .ctrlWriteRead 0x2A#7 [0x00#8, 0x02#8] 2 (some [0#8, 2#8]),
        .ctrlWrite 0x2A#7 [0x00#8, 0x04#8, 0x48#8, 0x58#8] true,
        .ctrlWrite 0x2A#7 [0x00#8, 0x06#8, 0x00#8, 0x02#8] true] := by decide

theorem test_get_agc_named_status :
    (sent (exec .getAgc
      (idle [.ok, .ok] [.ok 0#8 2#8, .ok 0#8 1#8, .ok 0xFE#8 2#8]))).head?
      = some (.opResponse 0x000000010002FE00#64) := by decide

theorem test_set_tlm_and_get_gpio_errors :
    sent (exec (.setTlm 1#16) (idle [.err] []))
        = [.opResponse 1#64, .ctrlWrite 0x2A#7 [0x00#8, 0x08#8, 0x00#8, 0x01#8] false]
      ∧ (sent (exec .getGpio (idle [.ok, .ok] [.ok 0#8 2#8, .err]))).take 2
        = [.opResponse 1#64, .ctrlWriteRead 0x2A#7 [0x00#8, 0x08#8] 2 none] := by decide

theorem test_set_vconst_unresponsive :
    (sent (exec (.setVconst 0x1234#16)
      { idle [.ok, .ok, .ok] [.ok 0#8 3#8] with cfg := bounded 1 1 })).take 2
      = [.opResponse 3#64, .ctrlWriteRead 0x2A#7 [0x00#8, 0x02#8] 2 (some [0#8, 3#8])] := by decide

/-- Which command-id an operation writes, the COMMAND write being the third newest event. -/
def idWritten (i : Instr) : Option Event :=
  (sent (exec i (idle [.ok, .ok, .ok] [.err])))[2]?

theorem test_each_set_writes_its_command :
    [Instr.setPhase 0#16, .setGpio 0#16, .setVsrc 0#16, .setVconst 0#16, .setTlm 0#16,
        .setAgc 0#16].map idWritten
      = [[0x48#8, 0x59#8], [0x48#8, 0x55#8], [0x48#8, 0x2D#8], [0x48#8, 0x3D#8], [0x02#8, 0x19#8],
        [0x01#8, 0x01#8]].map fun id => some (.ctrlWrite 0x2A#7 ([0x00#8, 0x04#8] ++ id) true) := by
  decide

theorem test_each_get_writes_its_command :
    [Instr.getPhase, .getGpio, .getVsrc, .getVconst, .getTlm, .getAgc].map idWritten
      = [[0x48#8, 0x58#8], [0x48#8, 0x54#8], [0x48#8, 0x2C#8], [0x48#8, 0x3C#8], [0x02#8, 0x18#8],
        [0x01#8, 0x00#8]].map fun id => some (.ctrlWrite 0x2A#7 ([0x00#8, 0x04#8] ++ id) true) := by
  decide

theorem test_armtrig_keeps_pending :
    (after (exec .armtrig { State.reset with trigPending := true })).trigPending = true
      ∧ (after (exec .armtrig { State.reset with trigPending := true })).trigArmed = true := by decide

theorem test_waittrig :
    sent (exec .waittrig { State.reset with trigPending := true }) = [.opResponse 0#64]
      ∧ (after (exec .waittrig State.reset)).opBusy = true
      ∧ sent (exec .waittrig State.reset) = [] := by decide

theorem test_capture_bound_and_bulk_error :
    sent (exec .capture { streaming [.ok, .err 0, .ok]
        (packet0E ++ packetG5) with cfg := bounded 3 3 })
        = [.opResponse 4#64, .dataRead 164 true, .dataRead 164 false, .dataRead 164 true]
      ∧ sent (exec .capture (streaming [.ok, .err 0] zeros))
        = [.opResponse 2#64, .dataRead 9676 false, .dataRead 164 true] := by decide +kernel

theorem test_rdframe_empty :
    sent (exec (.rdframe 0) State.reset) = [.frameResponse 0 6#64 []]
      ∧ sent (exec (.rdframe 0) waiting) = [.frameResponse 0 6#64 []] := by decide

/-- PVAL sends nothing but its response. -/
theorem sent_pval (p : List Byte) :
    sent (exec (.pval p) State.reset) = [.opResponse (Result.verdict (validate p)).word] := by
  simp only [exec, execPval, dispatch_idle (show State.reset.opBusy = false from rfl),
    latchValidation_eq]
  rfl

theorem test_pval_responses :
    sent (exec (.pval packetG5) State.reset) = [.opResponse 0#64]
      ∧ sent (exec (.pval (packetG5.set 0 0x0F#8)) State.reset)
        = [.opResponse 0x0001000000000000#64]
      ∧ sent (exec (.pval (packetG5.set 1 0x04#8)) State.reset)
        = [.opResponse 0x0002000000000000#64] := by
  simp only [sent_pval, validate_eq]; decide +kernel

theorem test_step_runs_the_offered_word :
    (decodeTableWord 64 0x06 = some .gstat)
      ∧ (after (step (State.reset.withFetchWord 64 0x30))).trigArmed = true := by decide

/-! ### Witnesses: a state and operands that meet the hypotheses of each statement -/

theorem test_witness_round_trip :
    Cfg.profile.maxPayloadBytes ≤ 255
      ∧ (Instr.wrreg .data0 (List.replicate 32 0#8)).wf Cfg.profile = true
      ∧ { Cfg.profile with maxPayloadBytes := 255 }.maxPayloadBytes ≤ 255
      ∧ (Instr.execute 1#16 2#16 (List.replicate 255 0#8)).wf
        { Cfg.profile with maxPayloadBytes := 255 } = true := by decide +kernel

theorem test_witness_decoder_rejects :
    portExists Cfg.profile .op = true ∧ portExists Cfg.profile (.frame 0) = true
      ∧ (List.replicate 33 0#8 : List Byte).length = tailLength .op 0x0000000000210401#64
      ∧ ([] : List Byte).length = tailLength (.frame 0) 0x0000000000000041#64 := by decide

/-- WRREG with 33 payload bytes, its tail at the port. -/
def illegalOp : State := offered 0x0000000000210401#64 (List.replicate 33 0#8)

theorem test_witness_illegal_op :
    illegalOp.opBusy = false ∧ OpTurnNext illegalOp []
      ∧ illegalOp.opWords = 0x0000000000210401#64 :: []
      ∧ tailLength .op 0x0000000000210401#64 ≤ illegalOp.opPay.length
      ∧ Illegal illegalOp.cfg .op 0x0000000000210401#64 :=
  ⟨rfl, .inl rfl, rfl, by decide, .inr (.inr (.inr (.inl (by decide))))⟩

/-- GBOOT on FRAME port 0. -/
def illegalFrame : State := { State.reset with sched := [.frame 0 4#64] }

theorem test_witness_illegal_frame :
    illegalFrame.sched = .frame 0 4#64 :: [] ∧ 0 < illegalFrame.cfg.nReaders
      ∧ Illegal illegalFrame.cfg (.frame 0) 4#64 :=
  ⟨rfl, by decide, .inr (.inr (.inr (.inr (.inr (.inl ⟨⟨0, rfl⟩, by decide⟩)))))⟩

/-- A legal WRREG and one byte of the next request at the OP port. -/
def legalOp : State := offered 0x0000000000020401#64 [1#8, 2#8, 3#8]

theorem test_witness_step_runs_op :
    legalOp.opBusy = false ∧ OpTurnNext legalOp [] ∧ legalOp.opWords = 0x0000000000020401#64 :: []
      ∧ tailLength .op 0x0000000000020401#64 ≤ legalOp.opPay.length
      ∧ decode legalOp.cfg ⟨.op, 0x0000000000020401#64,
        legalOp.opPay.take (tailLength .op 0x0000000000020401#64)⟩
        = .ok (.wrreg .data0 [1#8, 2#8]) := ⟨rfl, .inl rfl, rfl, by decide, by decide⟩

theorem test_witness_step_runs_frame :
    { waiting with sched := [.frame 0 0x41#64] }.sched = .frame 0 0x41#64 :: []
      ∧ 0 < waiting.cfg.nReaders ∧ waiting.fbLock = false
      ∧ decode waiting.cfg ⟨.frame 0, 0x41#64, []⟩ = .ok (.rdframe 0) := by decide

theorem test_witness_request_waits :
    waiting.opBusy = true ∧ OpTurnNext waiting [] ∧ (∀ k, Instr.gboot ≠ .rdframe k)
      ∧ State.reset.opBusy = false ∧ OpTurnNext State.reset [] ∧ State.reset.opWords = []
      ∧ (offered 0x0000000000020401#64 [1#8]).opWords = [0x0000000000020401#64]
      ∧ (offered 0x0000000000020401#64 [1#8]).opPay.length < tailLength .op 0x0000000000020401#64 :=
  ⟨rfl, .inr ⟨rfl, rfl⟩, (fun k h => nomatch h), rfl, .inr ⟨rfl, rfl⟩, rfl, rfl, by decide⟩

theorem test_witness_edge :
    { State.reset with sched := [.edge, .op], trigArmed := true }.sched = .edge :: .op :: []
      ∧ { State.reset with sched := [.edge, .op], trigArmed := true }.trigArmed = true
      ∧ { State.reset with sched := [.edge] }.sched = .edge :: []
      ∧ { State.reset with sched := [.edge] }.trigArmed = false := by decide

theorem test_witness_classify :
    Cfg.profile.WF ∧ (0 : Int) < 1 ∧ (-2 : Int) ∈ Cfg.profile.documented
      ∧ (-10 : Int) ≠ 0 ∧ (-10 : Int) ∉ Cfg.profile.documented
      ∧ (-128 : Int) ≠ 0 ∧ (-128 : Int) ∉ Cfg.profile.documented := by decide

/-- R125's examples and the ends of the documented range. -/
theorem test_status_classes :
    classOf Cfg.profile (statusByte 0x0002#16) = .ok
      ∧ classOf Cfg.profile (statusByte 0x00FF#16) = .ok
      ∧ classOf Cfg.profile (statusByte 0xFF00#16) = .named (-1)
      ∧ classOf Cfg.profile (statusByte 0x8001#16) = .unknown
      ∧ classOf Cfg.profile (statusByte 0x7F00#16) = .unknown
      ∧ classOf Cfg.profile (statusByte 0xF600#16) = .unknown := by decide

theorem test_witness_packets :
    zeros.length = 164 ∧ zeros.getD 0 0#8 &&& 0x0F#8 ≠ 0x0F#8 ∧ packet0E.length = 164
      ∧ validate packet0E = .accept := by
  simp only [validate_eq]; decide +kernel

/-- For each clause about a flip, its guard and what it says, at the boundaries of its range. -/
theorem test_witness_flips :
    (flipBit packet0E 0 0).getD 0 0#8 &&& 0x0F#8 = 0x0F#8
      ∧ (flipBit packet0E 0 3).getD 0 0#8 &&& 0x0F#8 ≠ 0x0F#8
      ∧ validate (flipBit packet0E 0 0) = .discard .marked
      ∧ validate (flipBit packet0E 0 3) = .discard .checksum
      ∧ validate (flipBit packet0E 0 4) = .accept ∧ validate (flipBit packet0E 0 7) = .accept
      ∧ validate (flipBit packet0E 2 7) = .discard .checksum
      ∧ validate (flipBit packet0E 3 0) = .discard .checksum
      ∧ validate (flipBit packet0E 1 0) = .discard .checksum
      ∧ validate (flipBit packet0E 4 7) = .discard .checksum
      ∧ validate (flipBit packet0E 163 0) = .discard .checksum := by
  simp only [validate_eq]; decide +kernel

theorem test_witness_write_answered :
    (idle [.ok, .err] []).opBusy = false ∧ (idle [.ok, .err] []).cbWriteRsp = .ok :: [.err]
      ∧ (idle [.err] []).opBusy = false ∧ (idle [.err] []).cbWriteRsp = .err :: [] := by decide

theorem test_witness_read_answered :
    (idle [] [.ok 1#8 2#8]).opBusy = false ∧ (idle [] [.ok 1#8 2#8]).cbReadRsp = .ok 1#8 2#8 :: []
      ∧ (idle [] [.err, .err]).opBusy = false
      ∧ (idle [] [.err, .err]).cbReadRsp = .err :: [.err] := by decide

/-- One busy read, and two. -/
theorem busy_one : ∀ b ∈ [((0#8, 3#8) : Byte × Byte)], Busy b := by
  intro b hb
  rw [List.mem_singleton.1 hb]
  decide

theorem busy_two : ∀ b ∈ [((0#8, 3#8) : Byte × Byte), (0#8, 1#8)], Busy b := by
  intro b hb
  rcases List.mem_cons.1 hb with rfl | hb
  · decide
  · rw [List.mem_singleton.1 hb]
    decide

/-- EXEC without a payload whose first poll finds bit 0 clear, one answer being left over. -/
def execShort : State := idle [.ok, .ok, .err] [.ok 0#8 2#8]

/-- EXEC with a payload and one busy poll, under the bound 2. -/
def execLong : State :=
  { idle [.ok, .ok, .ok] [.ok 0#8 3#8, .ok 0#8 2#8, .err] with cfg := bounded 2 1 }

theorem test_witness_exec_completes_short :
    execShort.opBusy = false
      ∧ execShort.cbWriteRsp = dataOk [] ++ ([.ok, .ok, .err] : List WriteAnswer)
      ∧ execShort.cbReadRsp = answers [] ++ ([.ok 0#8 2#8] : List ReadAnswer) ∧ Ready (0#8, 2#8)
      ∧ execShort.timerRsp = ([] : List (Byte × Byte)).length + 2 ∧ PollsAllowed execShort.cfg 0 :=
  ⟨rfl, rfl, rfl, by decide, rfl, (fun m h => nomatch h)⟩

theorem test_witness_exec_completes_long :
    execLong.opBusy = false
      ∧ execLong.cbWriteRsp = dataOk [1#8] ++ ([.ok, .ok] : List WriteAnswer)
      ∧ execLong.cbReadRsp = answers [(0#8, 3#8)] ++ ([.ok 0#8 2#8, .err] : List ReadAnswer)
      ∧ (∀ b ∈ [((0#8, 3#8) : Byte × Byte)], Busy b) ∧ Ready (0#8, 2#8)
      ∧ execLong.timerRsp = [((0#8, 3#8) : Byte × Byte)].length + 1 ∧ PollsAllowed execLong.cfg 1 :=
  ⟨rfl, rfl, rfl, busy_one, by decide, rfl, (fun m h => by cases h; decide)⟩

theorem test_witness_exec_aborts_at_a_write :
    (idle [.err] []).opBusy = false ∧ ([1#8] : List Byte) ≠ [] ∧ (idle [.err] []).cbWriteRsp = .err :: []
      ∧ (idle [.ok, .err] []).opBusy = false
      ∧ (idle [.ok, .err] []).cbWriteRsp = dataOk [1#8] ++ ([.err] : List WriteAnswer)
      ∧ (idle [.ok, .err] []).cbWriteRsp = dataOk [] ++ ([.ok, .err] : List WriteAnswer)
      ∧ (idle [.ok, .ok, .err] []).opBusy = false
      ∧ (idle [.ok, .ok, .err] []).cbWriteRsp = dataOk [1#8] ++ ([.ok, .err] : List WriteAnswer) := by
  decide

/-- EXEC whose second STATUS read fails. -/
def execReadFails : State := idle [.ok, .ok] [.ok 0#8 3#8, .err]

theorem test_witness_exec_aborts_at_a_read :
    execReadFails.opBusy = false
      ∧ execReadFails.cbWriteRsp = dataOk [] ++ ([.ok, .ok] : List WriteAnswer)
      ∧ execReadFails.cbReadRsp = answers [(0#8, 3#8)] ++ ([.err] : List ReadAnswer)
      ∧ (∀ b ∈ [((0#8, 3#8) : Byte × Byte)], Busy b)
      ∧ execReadFails.timerRsp = [((0#8, 3#8) : Byte × Byte)].length + 1
      ∧ PollsAllowed execReadFails.cfg 1 :=
  ⟨rfl, rfl, rfl, busy_one, rfl, (fun _ h => nomatch h)⟩

/-- EXEC that meets its bound 2 with the second busy read. -/
def execUnresponsive : State :=
  { idle [.ok, .ok] [.ok 0#8 3#8, .ok 0#8 1#8] with cfg := bounded 2 1 }

/-- EXEC without a bound that has met two busy reads. -/
def execPolling : State := idle [.ok, .ok] [.ok 0#8 3#8, .ok 0#8 1#8]

theorem test_witness_poll_bound :
    execUnresponsive.opBusy = false
      ∧ execUnresponsive.cbWriteRsp = dataOk [] ++ ([.ok, .ok] : List WriteAnswer)
      ∧ (∀ b ∈ [((0#8, 3#8) : Byte × Byte)], Busy b) ∧ Busy (0#8, 1#8)
      ∧ execUnresponsive.cfg.maxPolls = some ([((0#8, 3#8) : Byte × Byte)].length + 1)
      ∧ execUnresponsive.cbReadRsp = answers ([(0#8, 3#8)] ++ [(0#8, 1#8)]) ++ []
      ∧ execUnresponsive.timerRsp = [((0#8, 3#8) : Byte × Byte)].length + 1 :=
  ⟨rfl, rfl, busy_one, by decide, rfl, rfl, rfl⟩

theorem test_witness_no_poll_bound :
    execPolling.opBusy = false
      ∧ execPolling.cbWriteRsp = dataOk [] ++ ([.ok, .ok] : List WriteAnswer)
      ∧ (∀ b ∈ [((0#8, 3#8) : Byte × Byte), (0#8, 1#8)], Busy b) ∧ execPolling.cfg.maxPolls = none
      ∧ execPolling.cbReadRsp = answers [(0#8, 3#8), (0#8, 1#8)]
      ∧ execPolling.timerRsp = [((0#8, 3#8) : Byte × Byte), (0#8, 1#8)].length + 0 :=
  ⟨rfl, rfl, busy_two, rfl, rfl, rfl⟩

/-- EXEC without a bound, whose timer runs out once and which then meets a second busy read. -/
def execWaiting : State :=
  { idle [.ok, .ok] [.ok 0#8 3#8, .ok 0#8 1#8, .ok 0#8 2#8] with timerRsp := 1 }

theorem test_witness_poll_wait :
    execWaiting.opBusy = false
      ∧ execWaiting.cbWriteRsp = dataOk [] ++ ([.ok, .ok] : List WriteAnswer)
      ∧ (∀ b ∈ [((0#8, 3#8) : Byte × Byte)], Busy b) ∧ Busy (0#8, 1#8)
      ∧ execWaiting.cbReadRsp
        = answers ([(0#8, 3#8)] ++ [(0#8, 1#8)]) ++ ([.ok 0#8 2#8] : List ReadAnswer)
      ∧ execWaiting.timerRsp = [((0#8, 3#8) : Byte × Byte)].length
      ∧ PollsAllowed execWaiting.cfg 2 ∧ PollsAllowed (bounded 3 1) 2 :=
  ⟨rfl, rfl, busy_one, by decide, rfl, rfl, (fun m h => nomatch h), (fun m h => by cases h; decide)⟩

/-- `execWaiting` after its EXEC: it holds in `C_POLL_WAIT`. -/
def heldWaiting : State := after (exec (.execute 0x0100#16 2#16 []) execWaiting)

theorem test_poll_wait :
    heldWaiting.ccsState = .pollWait ∧ heldWaiting.pollCnt = 2
      ∧ (resume { heldWaiting with timerRsp := 1 }).opBusy = false
      ∧ (resume { heldWaiting with timerRsp := 1 }).pollCnt = 3 := by decide

theorem test_witness_held_poll_wait :
    heldWaiting.chanSel = .ctrl ∧ heldWaiting.ccsState = .pollWait ∧ heldWaiting.timerRsp = 0
      ∧ { heldWaiting with timerRsp := 1 }.timerRsp = 0 + 1 := by decide

/-- A SET with one busy read. -/
def setLong : State := idle [.ok, .ok, .ok] [.ok 0#8 3#8, .ok 0#8 2#8, .ok 0xFE#8 2#8]

/-- A GET with no busy read. -/
def getShort : State := idle [.ok, .ok] [.ok 0#8 2#8, .ok 0#8 1#8, .ok 0#8 2#8]

theorem test_witness_set_completes :
    setLong.opBusy = false ∧ setLong.cbWriteRsp = .ok :: .ok :: .ok :: []
      ∧ setLong.cbReadRsp = answers [(0#8, 3#8)] ++ ([.ok 0#8 2#8, .ok 0xFE#8 2#8] : List ReadAnswer)
      ∧ (∀ b ∈ [((0#8, 3#8) : Byte × Byte)], Busy b) ∧ Ready (0#8, 2#8)
      ∧ setLong.timerRsp = [((0#8, 3#8) : Byte × Byte)].length + 1 ∧ PollsAllowed setLong.cfg 1 :=
  ⟨rfl, rfl, rfl, busy_one, by decide, rfl, (fun m h => nomatch h)⟩

theorem test_witness_get_completes :
    getShort.opBusy = false ∧ getShort.cbWriteRsp = .ok :: .ok :: []
      ∧ getShort.cbReadRsp
        = answers [] ++ ([.ok 0#8 2#8, .ok 0#8 1#8, .ok 0#8 2#8] : List ReadAnswer)
      ∧ Ready (0#8, 2#8) ∧ getShort.timerRsp = ([] : List (Byte × Byte)).length + 2
      ∧ PollsAllowed getShort.cfg 0 :=
  ⟨rfl, rfl, rfl, by decide, rfl, (fun m h => nomatch h)⟩

/-- The states of the three bus errors after the poll: of a SET, of a GET at its data, at its status. -/
def failing (n : Nat) (rs : List ReadAnswer) : State :=
  idle (List.replicate n .ok) (.ok 0#8 3#8 :: .ok 0#8 2#8 :: rs)

theorem test_witness_get_and_set_abort :
    (failing 3 [.err]).opBusy = false ∧ (∀ b ∈ [((0#8, 3#8) : Byte × Byte)], Busy b)
      ∧ Ready (0#8, 2#8) ∧ (failing 3 [.err]).cbWriteRsp = .ok :: .ok :: .ok :: []
      ∧ (failing 3 [.err]).cbReadRsp = answers [(0#8, 3#8)] ++ ([.ok 0#8 2#8, .err] : List ReadAnswer)
      ∧ (failing 2 [.err]).cbWriteRsp = .ok :: .ok :: []
      ∧ (failing 2 [.err]).cbReadRsp = answers [(0#8, 3#8)] ++ ([.ok 0#8 2#8, .err] : List ReadAnswer)
      ∧ (failing 2 [.ok 7#8 7#8, .err]).cbReadRsp
        = answers [(0#8, 3#8)] ++ ([.ok 0#8 2#8, .ok 7#8 7#8, .err] : List ReadAnswer)
      ∧ (failing 3 [.err]).timerRsp = [((0#8, 3#8) : Byte × Byte)].length + 1
      ∧ PollsAllowed (failing 2 [.err]).cfg 1 :=
  ⟨rfl, busy_one, by decide, rfl, rfl, rfl, rfl, rfl, rfl, (fun m h => nomatch h)⟩

/-- A SET and a GET whose second STATUS read of the poll fails. -/
def failingPoll (n : Nat) : State := idle (List.replicate n .ok) [.ok 0#8 3#8, .err]

theorem test_witness_get_and_set_abort_early :
    (idle [.err] []).opBusy = false ∧ (idle [.err] []).cbWriteRsp = .err :: []
      ∧ (idle [.ok, .err] []).opBusy = false ∧ (idle [.ok, .err] []).cbWriteRsp = .ok :: .err :: []
      ∧ (idle [.ok, .ok, .err] []).opBusy = false
      ∧ (idle [.ok, .ok, .err] []).cbWriteRsp = .ok :: .ok :: .err :: []
      ∧ (failingPoll 3).opBusy = false ∧ (failingPoll 3).cbWriteRsp = .ok :: .ok :: .ok :: []
      ∧ (failingPoll 2).opBusy = false ∧ (failingPoll 2).cbWriteRsp = .ok :: .ok :: []
      ∧ (failingPoll 3).cbReadRsp = answers [(0#8, 3#8)] ++ ([.err] : List ReadAnswer)
      ∧ (failingPoll 2).cbReadRsp = answers [(0#8, 3#8)] ++ ([.err] : List ReadAnswer)
      ∧ (∀ b ∈ [((0#8, 3#8) : Byte × Byte)], Busy b)
      ∧ (failingPoll 3).timerRsp = [((0#8, 3#8) : Byte × Byte)].length + 1
      ∧ (failingPoll 2).timerRsp = [((0#8, 3#8) : Byte × Byte)].length + 1
      ∧ PollsAllowed (failingPoll 2).cfg 1 ∧ PollsAllowed (failingPoll 3).cfg 1 :=
  ⟨rfl, rfl, rfl, rfl, rfl, rfl, rfl, rfl, rfl, rfl, rfl, rfl, busy_one, rfl, rfl,
    (fun _ h => nomatch h), (fun _ h => nomatch h)⟩

theorem test_witness_get_and_set_abort_early_at_once :
    (idle [] [.err]).cbReadRsp = answers [] ++ ([.err] : List ReadAnswer)
      ∧ lastStatus 7#16 [] = 7#16 ∧ lastStatus 7#16 [(0#8, 3#8), (1#8, 5#8)] = 0x0105#16 := by decide

/-- A SET and a GET that meet the bound 1 with their first read. -/
def unresponsive (n : Nat) : State :=
  { idle (List.replicate n .ok) [.ok 0#8 1#8] with cfg := bounded 1 1 }

theorem test_witness_get_and_set_unresponsive :
    (unresponsive 3).opBusy = false ∧ (unresponsive 3).cbWriteRsp = .ok :: .ok :: .ok :: []
      ∧ (unresponsive 2).opBusy = false ∧ (unresponsive 2).cbWriteRsp = .ok :: .ok :: []
      ∧ Busy (0#8, 1#8) ∧ (unresponsive 2).cfg.maxPolls = some (([] : List (Byte × Byte)).length + 1)
      ∧ (unresponsive 2).cbReadRsp = answers ([] ++ [(0#8, 1#8)]) ++ []
      ∧ (unresponsive 2).timerRsp = ([] : List (Byte × Byte)).length + 2 := by decide

/-- A core with the answers of a SET, or of EXEC and GSTAT. -/
def setRun : State := idle [.ok, .ok, .ok] [.ok 0#8 2#8, .ok 0xFE#8 2#8]

/-- `setRun` after the EXEC of a SET. -/
def setRunExec : State := after (exec (.execute 0x4859#16 2#16 (toBe16 5#16)) setRun)

theorem test_witness_set_equals_host_sequence :
    setRun.opBusy = false
      ∧ exec (.execute (Cfg.profile.cmdTable.of .phase).set.id (Cfg.profile.cmdTable.of .phase).set.len
        (toBe16 5#16)) setRun = .next setRunExec
      ∧ setRunExec.opBusy = false
      ∧ setRunExec.trace.head? = some (.opResponse Result.done.word)
      ∧ exec .gstat setRunExec = .next (after (exec .gstat setRunExec))
      ∧ (after (exec .gstat setRunExec)).opBusy = false
      ∧ (after (exec .gstat setRunExec)).trace.head?
        ≠ some (.opResponse (Result.error .ctrlBusError).word) :=
  ⟨rfl, rfl, by decide, by decide, rfl, by decide, by decide⟩

/-- A core with the answers of a GET, or of EXEC, RDREG and GSTAT, after its EXEC. -/
def getRunExec : State :=
  after (exec (.execute 0x4858#16 2#16 [])
    (idle [.ok, .ok] [.ok 0#8 2#8, .ok 1#8 2#8, .ok 0#8 2#8]))

/-- `getRunExec` after the RDREG. -/
def getRunRead : State := after (exec (.rdreg .data0) getRunExec)

theorem test_witness_get_equals_host_sequence :
    (idle [.ok, .ok] [.ok 0#8 2#8, .ok 1#8 2#8, .ok 0#8 2#8]).opBusy = false
      ∧ exec (.execute (Cfg.profile.cmdTable.of .phase).get.id
        (Cfg.profile.cmdTable.of .phase).get.len [])
        (idle [.ok, .ok] [.ok 0#8 2#8, .ok 1#8 2#8, .ok 0#8 2#8]) = .next getRunExec
      ∧ getRunExec.opBusy = false ∧ getRunExec.trace.head? = some (.opResponse Result.done.word)
      ∧ exec (.rdreg .data0) getRunExec = .next getRunRead ∧ getRunRead.opBusy = false
      ∧ getRunRead.trace.head? ≠ some (.opResponse (Result.error .ctrlBusError).word)
      ∧ exec .gstat getRunRead = .next (after (exec .gstat getRunRead))
      ∧ (after (exec .gstat getRunRead)).opBusy = false
      ∧ (after (exec .gstat getRunRead)).trace.head?
        ≠ some (.opResponse (Result.error .ctrlBusError).word) :=
  ⟨rfl, rfl, by decide, by decide, rfl, by decide, by decide, rfl, by decide, by decide⟩

theorem test_witness_get_and_set_differ :
    setRun.cfg.WF ∧ setRun.opBusy = false
      ∧ exec .getAgc setRun = .next (after (exec .getAgc setRun))
      ∧ exec (.setAgc 1#16) setRun = .next (after (exec (.setAgc 1#16) setRun)) :=
  ⟨by decide, rfl, rfl, rfl⟩

theorem test_witness_pval :
    State.reset.opBusy = false ∧ zeros.getD 0 0#8 &&& 0x0F#8 ≠ 0x0F#8
      ∧ (zeros.set 0 0x0F#8).getD 0 0#8 &&& 0x0F#8 = 0x0F#8 := by decide

/-- One packet of a frame that is a run of one byte. -/
theorem packetOf_replicate (b : Byte) (n i : Nat) (h : 164 * (i + 1) ≤ n) :
    packetOf (List.replicate n b) i = List.replicate 164 b := by
  rw [packetOf, List.drop_replicate, List.take_replicate, Nat.min_eq_left (by omega)]

/-- The all-zero packet is accepted (V7). -/
theorem zeros_accepted : validate (List.replicate 164 0x00#8) = .accept := by
  rw [validate_eq]; decide +kernel

/-- A frame of zeros after an arbitrary first attempt. -/
theorem zero_frame_accepted {n i : Nat} (hn : n = 9676) (hi : i < 60) :
    validate (packetOf (List.replicate 164 0x00#8 ++ List.replicate n 0x00#8) i) = .accept := by
  rw [List.replicate_append_replicate, packetOf_replicate _ _ _ (by omega)]
  exact zeros_accepted

/-- The state of the next witness, the length of the bulk being a variable. -/
theorem finds_line_zero (n : Nat) :
    FindsLineZero (streaming [.err 1, .ok, .ok, .ok]
        ([9#8] ++ packetG5 ++ zeros ++ (List.replicate n 0#8 ++ [7#8])))
      [.failed [9#8], .skipped packetG5] zeros [.ok] (List.replicate n 0#8 ++ [7#8]) := by
  refine ⟨rfl, rfl, ?_, by decide +kernel, (fun m h => nomatch h), by decide +kernel,
    by decide⟩
  simp only [streaming, List.flatMap_cons, List.flatMap_nil, Attempt.bytes, List.append_nil]

theorem test_witness_capture_publishes :
    FindsLineZero (streaming [.err 1, .ok, .ok, .ok]
        ([9#8] ++ packetG5 ++ zeros ++ (List.replicate 9676 0#8 ++ [7#8])))
        [.failed [9#8], .skipped packetG5] zeros [.ok] (List.replicate 9676 0#8 ++ [7#8])
      ∧ (List.replicate 9676 0#8 : List Byte).length = 9676 ∧ State.reset.asmBuf.wf
      ∧ ∀ i < 60, validate (packetOf (List.replicate 164 0#8 ++ List.replicate 9676 0#8) i)
        = .accept :=
  ⟨finds_line_zero 9676, List.length_replicate, Memory.wf_nil, fun _ hi =>
    zero_frame_accepted rfl hi⟩

/-- The last packet of a frame whose other packets are zeros. -/
theorem packetOf_last {n : Nat} {p : List Byte} (hn : n = 9676) (hp : p.length = 164) :
    packetOf (List.replicate n 0#8 ++ p) 59 = p := by
  rw [packetOf, List.drop_append_of_le_length (by simp; omega), List.drop_replicate,
    show n - 164 * 59 = 0 by omega, List.replicate_zero, List.nil_append,
    List.take_of_length_le (by omega)]

/-- Another packet of such a frame. -/
theorem packetOf_other {n j : Nat} {p : List Byte} (hn : n = 9676) (hj : j < 59) :
    packetOf (List.replicate n 0#8 ++ p) j = List.replicate 164 0#8 := by
  rw [← packetOf_replicate 0#8 n j (by omega), packetOf, packetOf,
    List.drop_append_of_le_length (by simp; omega),
    List.take_append_of_le_length (by simp; omega)]

theorem test_witness_capture_discards_last :
    (List.replicate 9512 0#8 ++ List.replicate 164 0xFF#8 : List Byte).length = 9676
      ∧ (∀ j < 59, validate (packetOf (List.replicate 164 0#8
        ++ (List.replicate 9512 0#8 ++ List.replicate 164 0xFF#8)) j) = .accept)
      ∧ validate (packetOf (List.replicate 164 0#8
        ++ (List.replicate 9512 0#8 ++ List.replicate 164 0xFF#8)) 59) = .discard .marked := by
  refine ⟨?_, fun j hj => ?_, ?_⟩
  · rw [List.length_append, List.length_replicate, List.length_replicate]
  · rw [← List.append_assoc, List.replicate_append_replicate, packetOf_other rfl hj]
    exact zeros_accepted
  · rw [← List.append_assoc, List.replicate_append_replicate,
      packetOf_last rfl List.length_replicate]
    decide

/-- A frame whose packet 0 starts a frame and fails its checksum. -/
theorem finds_bad_line_zero (n : Nat) :
    FindsLineZero (streaming [.ok, .ok] (zeros.set 3 1#8 ++ List.replicate n 0#8)) []
      (zeros.set 3 1#8) [.ok] (List.replicate n 0#8) := by
  refine ⟨rfl, rfl, ?_, by simp, (fun m h => nomatch h), by decide +kernel, by decide⟩
  simp only [streaming, List.flatMap_nil, List.nil_append]

theorem test_witness_capture_discards_first :
    FindsLineZero (streaming [.ok, .ok] (zeros.set 3 1#8 ++ List.replicate 9676 0#8)) []
        (zeros.set 3 1#8) [.ok] (List.replicate 9676 0#8)
      ∧ (List.replicate 9676 0#8 : List Byte).length = 9676 ∧ State.reset.asmBuf.wf
      ∧ validate (packetOf (zeros.set 3 1#8 ++ List.replicate 9676 0#8) 0)
        = .discard .checksum := by
  refine ⟨finds_bad_line_zero 9676, List.length_replicate, Memory.wf_nil, ?_⟩
  have h : packetOf (zeros.set 3 1#8 ++ List.replicate 9676 0#8) 0 = zeros.set 3 1#8 := by
    have hl : (zeros.set 3 1#8).length = 164 := by decide +kernel
    rw [packetOf, Nat.mul_zero, List.drop_zero, List.take_append_of_le_length (by omega),
      List.take_of_length_le (by omega)]
  rw [h, validate_eq]
  decide +kernel

theorem test_witness_capture_bulk_failure :
    FindsLineZero (streaming [.ok, .err 2] (zeros ++ ([7#8, 8#8] ++ []))) [] zeros
        [.err ([7#8, 8#8] : List Byte).length] ([7#8, 8#8] ++ [])
      ∧ FindsLineZero { streaming [.ok, .err 0] zeros with cfg := bounded 1 1 } [] zeros [.err 0]
        [] := by
  have hl : zeros.length = 164 := by decide +kernel
  have hz : lineId zeros = 0#16 := by decide
  refine ⟨⟨rfl, rfl, ?_, by simp, (fun m h => nomatch h), hl, hz⟩,
    ⟨rfl, rfl, ?_, by simp, (fun _ h => by cases h; decide), hl, hz⟩⟩
  · simp only [streaming, List.flatMap_nil, List.nil_append]
  · simp only [streaming, List.flatMap_nil, List.nil_append, List.append_nil]

/-- Two attempts that start no frame. -/
def noFrame : List Attempt := [.skipped packetG5, .failed []]

/-- A core that will make them, under the bound 2. -/
def exhausted : State := { streaming [.ok, .err 0] packetG5 with cfg := bounded 1 2 }

theorem test_witness_sync_bound :
    exhausted.opBusy = false ∧ exhausted.dbRsp = noFrame.map Attempt.answer ++ []
      ∧ exhausted.stream = noFrame.flatMap Attempt.bytes ++ []
      ∧ (∀ a ∈ noFrame, a.valid = true) ∧ exhausted.cfg.maxSyncAttempts = some noFrame.length := by
  decide +kernel

theorem test_witness_no_sync_bound :
    (streaming [.ok, .err 0] packetG5).opBusy = false
      ∧ (streaming [.ok, .err 0] packetG5).dbRsp = noFrame.map Attempt.answer ++ []
      ∧ (streaming [.ok, .err 0] packetG5).stream = noFrame.flatMap Attempt.bytes ++ []
      ∧ (∀ a ∈ noFrame, a.valid = true)
      ∧ (streaming [.ok, .err 0] packetG5).cfg.maxSyncAttempts = none := by decide +kernel

/-- A core with a FrameBuffer. -/
def published : State :=
  { State.reset with fbValid := true, fb := [(0, 1#8), (9839, 2#8)] }

theorem test_witness_rdframe :
    published.fbLock = false ∧ published.fbValid = true ∧ published.fb.wf
      ∧ State.reset.fbLock = false ∧ State.reset.fbValid = false := by decide

theorem test_witness_trigger :
    State.reset.opBusy = false ∧ State.reset.trigPending = false
      ∧ { State.reset with trigPending := true }.opBusy = false
      ∧ { State.reset with trigPending := true }.trigPending = true := by decide

theorem test_witness_held_waittrig :
    { State.reset with trigArmed := true, sched := [.edge, .op] }.opBusy = false
      ∧ { State.reset with trigArmed := true, sched := [.edge, .op] }.trigArmed = true
      ∧ { State.reset with trigArmed := true, sched := [.edge, .op] }.trigPending = false
      ∧ { State.reset with trigArmed := true, sched := [.edge, .op] }.sched = .edge :: .op :: [] := by
  decide

theorem test_witness_dead_wait : waiting.DeadWait := by decide

theorem test_witness_reset_turn :
    { published with sched := [.reset, .op] }.sched = .reset :: [.op]
      ∧ { published with sched := [.reset, .op] }.opBusy = false
      ∧ { waiting with sched := [.reset] }.sched = .reset :: []
      ∧ { waiting with sched := [.reset] }.opBusy = true := by decide

theorem test_witness_frames :
    chanOf Instr.gboot.opcode = .ctrl ∧ exec .gboot execShort = .next (after (exec .gboot execShort))
      ∧ chanOf Instr.armtrig.opcode = .none
      ∧ exec .armtrig published = .next (after (exec .armtrig published))
      ∧ exec .capture State.reset = .next (after (exec .capture State.reset)) :=
  ⟨rfl, rfl, rfl, rfl, rfl⟩

theorem test_witness_result_classes :
    { State.reset with opR := Opcode.gboot.byte, chanSel := .ctrl, ccsState := .rdStatus }.opR
        = Opcode.gboot.byte
      ∧ { State.reset with opR := Opcode.gboot.byte, chanSel := .ctrl, ccsState := .rdStatus }.holds
        = true
      ∧ { heldWaiting with timerRsp := 5 }.opR = Opcode.execute.byte
      ∧ { heldWaiting with timerRsp := 5 }.holds = true
      ∧ { State.reset with opR := Opcode.capture.byte, chanSel := .data, faState := .bulk }.opR
        = Opcode.capture.byte
      ∧ { State.reset with opR := Opcode.capture.byte, chanSel := .data, faState := .bulk }.holds
        = true := by decide

theorem test_witness_arrival :
    State.reset.opBusy = false ∧ chanOf Instr.getAgc.opcode ≠ .none
      ∧ exec .getAgc State.reset = .next (after (exec .getAgc State.reset)) := ⟨rfl, by decide, rfl⟩

theorem test_witness_step :
    published.fbValid = true ∧ (∀ l, published.sched ≠ .reset :: l) ∧ published.BuffersWf
      ∧ step published = .next (after (step published)) :=
  ⟨rfl, (fun l h => nomatch h), by decide, rfl⟩

/-- A run of zeros read from an empty buffer. -/
theorem readBlock_nil (a n : Nat) : Memory.readBlock [] a n = List.replicate n 0#8 := by
  show Memory.walk [] a n = _
  induction n generalizing a with
  | zero => rfl
  | succ n ih => rw [Memory.walk, ih, List.replicate_succ]

theorem test_witness_invariant :
    State.reset.Inv ∧ { State.reset with fbValid := true }.Inv
      ∧ step { State.reset with fbValid := true }
        = .next (after (step { State.reset with fbValid := true })) := by
  have z : FrameValid [] := by
    refine ⟨by rw [Memory.packet, readBlock_nil]; decide, fun i _ => ?_⟩
    rw [Memory.packet, readBlock_nil]
    exact zeros_accepted
  exact ⟨⟨⟨rfl, .inl ⟨rfl, rfl, rfl, rfl⟩, fun h => by cases h⟩, ⟨Memory.wf_nil, Memory.wf_nil⟩,
    fun _ => z⟩, ⟨⟨rfl, .inl ⟨rfl, rfl, rfl, rfl⟩, fun h => by cases h⟩,
    ⟨Memory.wf_nil, Memory.wf_nil⟩, fun _ => z⟩, rfl⟩

end Sys2Proof.Tests
end

section
/-! PROOF. The byte order of the wire read both ways (R11, R94, R130), and the profile against the constraints on `Cfg` (R9, R128). -/

namespace Sys2Proof.Machine

/-- The 16-bit value of two bytes is sent as those two bytes: with `be16_toBe16`, the two directions
of R11 are inverse to each other. -/
@[simp] theorem toBe16_be16 (b0 b1 : Byte) : toBe16 (be16 b0 b1) = [b0, b1] := by
  have high : (b0 ++ b1).extractLsb' 8 8 = b0 := BitVec.extractLsb'_append_eq_left
  have low : (b0 ++ b1).extractLsb' 0 8 = b1 := BitVec.extractLsb'_append_eq_right
  rw [be16, toBe16, high, low]

/-- Settles O10: each pair is `toBe16` of its field, which `be16_toBe16` reads back; the other
direction is `toBe16_be16`. -/
theorem commandSurvivesItsWireFormat : Obligations.CommandSurvivesItsWireFormat := by
  unfold Obligations.CommandSurvivesItsWireFormat
  refine ⟨fun c => ⟨_, _, _, _, rfl, rfl, ?_, ?_⟩, toBe16_be16⟩
  · exact be16_toBe16 c.len
  · exact be16_toBe16 c.id

/-- Settles O57, one closed fact for each constraint: R9's register addresses, the table's
command-ids (all distinct, and R128's one bit apart in each pair), the documented codes, the payload
size and the two bounds, which the profile leaves absent. -/
theorem profileIsWellFormed : Obligations.ProfileIsWellFormed := by
  unfold Obligations.ProfileIsWellFormed
  refine ⟨?addresses, ?ids, ?oneBit, ?documented, ?payloadMin, ?payloadMax, ?polls, ?syncs⟩
  case addresses => decide
  case ids => decide
  case oneBit => decide
  case documented => decide
  case payloadMin => decide
  case payloadMax => decide
  case polls => rfl
  case syncs => rfl

end Sys2Proof.Machine
end

section
/-! PROOF. What a run of the assembler does to the two buffers, said once: a read that fills is one
block write, and a frame is published only when every packet has been accepted (R220 to R228). -/

namespace Sys2Proof.Machine

/-- The FrameBuffer is as before. -/
abbrev SameFrame (s t : State) : Prop := t.fb = s.fb ∧ t.fbValid = s.fbValid

/-- The newest output is a response with an error class. -/
abbrev EndedWith (e : ErrorClass) (t : State) : Prop :=
  t.trace.head? = some (.opResponse (Result.error e).word)

/-- Field `RC` of a response word (R92). -/
theorem mkResponse_rc (rc sc : Byte) (scc : BitVec 2) (val : Half) (aux : Byte) :
    (mkResponse rc sc scc val aux).extractLsb' 0 8 = rc := by
  refine BitVec.eq_of_getLsbD_eq fun i hi => ?_
  simp [hi, mkResponse_getLsbD]

/-- A response whose `RC` is no error code of R270 is not the response of an error class. -/
theorem not_endedWith_of_response {r : Result} {t : State} {e : ErrorClass}
    (ht : t.trace.head? = some (.opResponse r.word)) (hr : r.word.extractLsb' 0 8 ≠ e.code) :
    ¬ EndedWith e t := fun h => by
  rw [EndedWith, ht, Option.some.injEq, Event.opResponse.injEq] at h
  exact hr (by rw [h, Result.word, mkResponse_rc])

/-- Where a validation of packets `i` to `i + n - 1` ends: before the lock, at the first discard, or
with the frame published, and then each of them has been accepted (R225 to R228). -/
inductive ValidateRun (i n : Nat) (s t : State) : Prop where
  | held (place : t.faState = .publish) (trace : t.trace = s.trace) (frame : SameFrame s t)
  | discarded (r : Reason) (j : Nat) (place : t.faState = .idle)
      (answer : t.trace.head? = some (.opResponse (Result.noUpdate r j).word))
      (frame : SameFrame s t)
  | published (place : t.faState = .idle)
      (answer : t.trace.head? = some (.opResponse Result.updated.word)) (fb : t.fb = s.asmBuf)
      (accepted : ∀ j, i ≤ j → j < i + n → validate (s.asmBuf.packet j) = .accept)

theorem runPublish_run (i : Nat) (s : State) : ValidateRun i 0 s (runPublish s) := by
  unfold runPublish
  split
  · exact .held rfl rfl ⟨rfl, rfl⟩
  · exact .published rfl rfl rfl fun j hi hj => absurd hj (by omega)

theorem validateFrom_run (n i : Nat) (s : State) : ValidateRun i n s (validateFrom n i s) := by
  induction n generalizing i s with
  | zero => exact runPublish_run i s
  | succ n ih =>
    rw [validateFrom, latchValidation_eq]
    split
    next hi =>
      cases ih (i + 1) _ with
      | held place trace frame => exact .held place trace frame
      | discarded r j place answer frame => exact .discarded r j place answer frame
      | published place answer fb accepted =>
        refine .published place answer fb fun j hij hj => ?_
        obtain rfl | hij := Nat.eq_or_lt_of_le hij
        · exact hi
        · exact accepted j hij (by omega)
    next r hr => exact .discarded r i rfl rfl ⟨rfl, rfl⟩

theorem runPublish_asmBuf (s : State) : (runPublish s).asmBuf = s.asmBuf := by
  unfold runPublish
  split <;> rfl

theorem validateFrom_asmBuf (n i : Nat) (s : State) :
    (validateFrom n i s).asmBuf = s.asmBuf := by
  induction n generalizing i s with
  | zero => exact runPublish_asmBuf s
  | succ n ih =>
    rw [validateFrom, latchValidation_eq]
    split
    · exact ih _ _
    · rfl

/-- A validation that starts after a data read ends with no error class (R279). -/
theorem ValidateRun.not_endedWith {i n m : Nat} {s t : State} {b : Bool} (h : ValidateRun i n s t)
    (hs : s.trace.head? = some (.dataRead m b)) (e : ErrorClass) : ¬ EndedWith e t := by
  cases h with
  | held place trace frame => simp [EndedWith, trace, hs]
  | discarded r j place answer frame =>
    refine not_endedWith_of_response answer ?_
    rw [Result.word, mkResponse_rc]
    cases e <;> decide
  | published place answer fb accepted =>
    refine not_endedWith_of_response answer ?_
    rw [Result.word, mkResponse_rc]
    cases e <;> decide

theorem ValidateRun.place {i n : Nat} {s t : State} (h : ValidateRun i n s t) :
    t.faState = .publish ∨ t.faState = .idle := by
  cases h with
  | held place => exact .inl place
  | discarded _ _ place => exact .inr place
  | published place => exact .inr place

/-- Where the bulk step ends (R224 to R228, R272): not answered, failed, or bytes 164 to 9839 of
`asm_buf` filled and the packets validated. -/
inductive BulkRun (s t : State) : Prop where
  | waiting (place : t.faState = .bulk) (asmBuf : t.asmBuf = s.asmBuf) (trace : t.trace = s.trace)
      (frame : SameFrame s t)
  | failed (place : t.faState = .idle) (asmBuf : t.asmBuf = s.asmBuf)
      (answer : EndedWith .dataBusError t) (frame : SameFrame s t)
  | filled (block : List Byte) (length : block.length = bulkBytes) (u : State)
      (run : ValidateRun 0 packetsPerFrame u t) (asmBuf : t.asmBuf = u.asmBuf)
      (stored : u.asmBuf = s.asmBuf.writeBlock packetBytes block)
      (read : u.trace.head? = some (.dataRead bulkBytes true)) (frame : SameFrame s u)

theorem runBulk_run (s : State) : BulkRun s (runBulk s) := by
  unfold runBulk
  rcases dataRead_cases bulkBytes { s with faState := .bulk } with
    h | ⟨k, l, -, -, h⟩ | ⟨l, -, hn, h⟩
  · rw [h]; exact .waiting rfl rfl rfl ⟨rfl, rfl⟩
  · rw [h]; exact .failed rfl rfl rfl ⟨rfl, rfl⟩
  · rw [h]
    exact .filled _ (List.length_take_of_le hn) _ (validateFrom_run _ _ _)
      (validateFrom_asmBuf _ _ _) rfl rfl ⟨rfl, rfl⟩

/-- Where the synchronisation step ends (R220 to R223): not answered, given up, or bytes 0 to 163 of
`asm_buf` filled by a block with identifier 0 and the bulk step begun. -/
inductive SyncRun (s t : State) : Prop where
  | waiting (place : t.faState = .sync) (asmBuf : t.asmBuf = s.asmBuf) (frame : SameFrame s t)
  | exhausted (place : t.faState = .idle) (asmBuf : t.asmBuf = s.asmBuf)
      (answer : EndedWith .syncExhausted t) (frame : SameFrame s t)
  | found (block : List Byte) (length : block.length = packetBytes) (line : lineId block = 0#16)
      (u : State) (run : BulkRun u t) (stored : u.asmBuf = s.asmBuf.writeBlock 0 block)
      (read : u.trace.head? = some (.dataRead packetBytes true)) (frame : SameFrame s u)

/-- Attempts that start no frame change neither buffer, so `u`, the state after some of them, agrees
with the start `s` on both (R221). -/
theorem syncLoop_run (n : Nat) (s u : State) (ha : u.asmBuf = s.asmBuf) (hf : SameFrame s u) :
    SyncRun s (syncLoop n u) := by
  induction n generalizing u with
  | zero =>
    rw [syncLoop]
    split
    · exact .exhausted rfl ha rfl hf
    · exact .waiting rfl ha hf
  | succ n ih =>
    rw [syncLoop]
    split
    · exact .exhausted rfl ha rfl hf
    rcases dataRead_cases packetBytes { u with faState := .sync } with
      h | ⟨k, l, -, -, h⟩ | ⟨l, -, hn, h⟩
    · rw [h]; exact .waiting rfl ha hf
    · rw [h]; exact ih _ ha hf
    · rw [h]
      dsimp only
      split
      next hl =>
        exact .found _ (List.length_take_of_le hn) hl _ (runBulk_run _)
          (congrArg (Memory.writeBlock · 0 _) ha) rfl hf
      next => exact ih _ ha hf

theorem runSync_run (s : State) : SyncRun s (runSync s) := syncLoop_run _ s s rfl ⟨rfl, rfl⟩

/-! ### What follows for `asm_buf` -/

theorem BulkRun.asmBuf_wf {s t : State} (h : BulkRun s t) (hs : s.asmBuf.wf) : t.asmBuf.wf := by
  cases h with
  | waiting _ asmBuf => rwa [asmBuf]
  | failed _ asmBuf => rwa [asmBuf]
  | filled block length u _ asmBuf stored =>
    rw [asmBuf, stored]
    exact Memory.wf_writeBlock hs (by simp [length, packetBytes, bulkBytes, frameBytes])

theorem SyncRun.asmBuf_wf {s t : State} (h : SyncRun s t) (hs : s.asmBuf.wf) : t.asmBuf.wf := by
  cases h with
  | waiting _ asmBuf => rwa [asmBuf]
  | exhausted _ asmBuf => rwa [asmBuf]
  | found block length _ u run stored =>
    refine run.asmBuf_wf ?_
    rw [stored]
    exact Memory.wf_writeBlock hs (by simp [length, packetBytes, frameBytes])

/-- The bulk read fills bytes 164 to 9839 only (R224). -/
theorem BulkRun.read_of_ge {s t : State} (h : BulkRun s t) {a : Nat} (ha : 9840 ≤ a) :
    t.asmBuf.read a = s.asmBuf.read a := by
  cases h with
  | waiting _ asmBuf => rw [asmBuf]
  | failed _ asmBuf => rw [asmBuf]
  | filled block length u _ asmBuf stored =>
    rw [asmBuf, stored, Memory.read_writeBlock, if_neg]
    simp only [length, packetBytes, bulkBytes]
    omega

/-- While the bulk read is awaited, and after it failed, `asm_buf` is as before (R224, R272). -/
theorem BulkRun.asmBuf_eq {s t : State} (h : BulkRun s t)
    (ht : t.faState = .bulk ∨ EndedWith .dataBusError t) : t.asmBuf = s.asmBuf := by
  cases h with
  | waiting _ asmBuf => exact asmBuf
  | failed _ asmBuf => exact asmBuf
  | filled block length u run asmBuf stored read frame =>
    rcases ht with ht | ht
    · rcases run.place with hp | hp <;> simp [hp] at ht
    · exact absurd ht (run.not_endedWith read _)

/-- A bulk step that begins after a data read does not end in synchronisation (R279). -/
theorem BulkRun.not_syncing {s t : State} {m : Nat} {b : Bool} (h : BulkRun s t)
    (hs : s.trace.head? = some (.dataRead m b)) :
    t.faState ≠ .sync ∧ ¬ EndedWith .syncExhausted t := by
  cases h with
  | waiting place _ trace => exact ⟨by simp [place], by simp [EndedWith, trace, hs]⟩
  | failed place _ answer =>
    refine ⟨by simp [place], not_endedWith_of_response answer ?_⟩
    rw [Result.word, mkResponse_rc]
    decide
  | filled block length u run asmBuf stored read frame =>
    refine ⟨?_, run.not_endedWith read _⟩
    rcases run.place with hp | hp <;> simp [hp]

/-- Both reads fill inside the 9,840 bytes (R36). -/
theorem SyncRun.read_of_ge {s t : State} (h : SyncRun s t) {a : Nat} (ha : 9840 ≤ a) :
    t.asmBuf.read a = s.asmBuf.read a := by
  cases h with
  | waiting _ asmBuf => rw [asmBuf]
  | exhausted _ asmBuf => rw [asmBuf]
  | found block length _ u run stored =>
    rw [run.read_of_ge ha, stored, Memory.read_writeBlock, if_neg]
    simp only [length, packetBytes]
    omega

/-- Before the bulk read has filled, only bytes 0 to 163 can have changed (R222, R272). -/
theorem SyncRun.read_of_bulk {s t : State} (h : SyncRun s t)
    (ht : t.faState = .bulk ∨ EndedWith .dataBusError t) {a : Nat} (ha : 164 ≤ a) :
    t.asmBuf.read a = s.asmBuf.read a := by
  cases h with
  | waiting _ asmBuf => rw [asmBuf]
  | exhausted _ asmBuf => rw [asmBuf]
  | found block length _ u run stored =>
    rw [run.asmBuf_eq ht, stored, Memory.read_writeBlock, if_neg]
    simp only [length, packetBytes]
    omega

/-- Before a first packet has been found, `asm_buf` is as before (R221, R223). -/
theorem SyncRun.asmBuf_eq {s t : State} (h : SyncRun s t)
    (ht : t.faState = .sync ∨ EndedWith .syncExhausted t) : t.asmBuf = s.asmBuf := by
  cases h with
  | waiting _ asmBuf => exact asmBuf
  | exhausted _ asmBuf => exact asmBuf
  | found block _ _ u run _ read =>
    obtain ⟨hp, he⟩ := run.not_syncing read
    exact absurd ht (not_or.2 ⟨hp, he⟩)

/-! ### What follows for a valid frame -/

/-- In `F_BULK` the packet already stored starts a frame (R222). -/
abbrev BulkStarted (s : State) : Prop := s.faState = .bulk → lineId (s.asmBuf.packet 0) = 0#16

/-- A valid FrameBuffer holds a valid frame (R38). -/
abbrev FrameBufferValid (s : State) : Prop := s.fbValid = true → FrameValid s.fb

theorem FrameBufferValid.of_sameFrame {s t : State} (h : FrameBufferValid s) (hf : SameFrame s t) :
    FrameBufferValid t := by
  obtain ⟨hb, hv⟩ := hf
  unfold FrameBufferValid
  rwa [hb, hv]

/-- The bulk read leaves packet 0 as it is (R224). -/
theorem packet_zero_writeBlock_bulk {m : Memory} {block : List Byte} (hm : m.wf)
    (hl : block.length = bulkBytes) : (m.writeBlock packetBytes block).packet 0 = m.packet 0 :=
  Memory.readBlock_writeBlock_of_disjoint hm
    (by simp [hl, packetBytes, bulkBytes, frameBytes]) (.inl (by simp))

/-- The first packet reads back as the block found (R222). -/
theorem packet_zero_writeBlock_first {m : Memory} {block : List Byte} (hm : m.wf)
    (hl : block.length = packetBytes) : (m.writeBlock 0 block).packet 0 = block := by
  have := Memory.readBlock_writeBlock (a := 0) (bs := block) hm
    (by simp [hl, packetBytes, frameBytes])
  rwa [hl] at this

theorem ValidateRun.frameBufferValid {s t : State} (h : ValidateRun 0 packetsPerFrame s t)
    (hl : lineId (s.asmBuf.packet 0) = 0#16) (hs : FrameBufferValid s) : FrameBufferValid t := by
  cases h with
  | held _ _ frame => exact hs.of_sameFrame frame
  | discarded _ _ _ _ frame => exact hs.of_sameFrame frame
  | published _ _ fb accepted =>
    intro _
    rw [fb]
    exact ⟨hl, fun j hj => accepted j (Nat.zero_le j) (by omega)⟩

theorem BulkRun.frameBufferValid {s t : State} (h : BulkRun s t) (hw : s.asmBuf.wf)
    (hl : lineId (s.asmBuf.packet 0) = 0#16) (hs : FrameBufferValid s) : FrameBufferValid t := by
  cases h with
  | waiting _ _ _ frame => exact hs.of_sameFrame frame
  | failed _ _ _ frame => exact hs.of_sameFrame frame
  | filled block length u run _ stored _ frame =>
    refine run.frameBufferValid ?_ (hs.of_sameFrame frame)
    rwa [stored, packet_zero_writeBlock_bulk hw length]

theorem BulkRun.bulkStarted {s t : State} (h : BulkRun s t)
    (hl : lineId (s.asmBuf.packet 0) = 0#16) : BulkStarted t := fun ht => by
  rwa [h.asmBuf_eq (.inl ht)]

theorem SyncRun.frame_kept {s t : State} (h : SyncRun s t) (hw : s.asmBuf.wf)
    (hs : FrameBufferValid s) : BulkStarted t ∧ FrameBufferValid t := by
  cases h with
  | waiting place _ frame => exact ⟨fun ht => by simp [place] at ht, hs.of_sameFrame frame⟩
  | exhausted place _ _ frame => exact ⟨fun ht => by simp [place] at ht, hs.of_sameFrame frame⟩
  | found block length line u run stored _ frame =>
    have hl : lineId (u.asmBuf.packet 0) = 0#16 := by
      rwa [stored, packet_zero_writeBlock_first hw length]
    have hu : u.asmBuf.wf := by
      rw [stored]; exact Memory.wf_writeBlock hw (by simp [length, packetBytes, frameBytes])
    exact ⟨run.bulkStarted hl, run.frameBufferValid hu hl (hs.of_sameFrame frame)⟩

end Sys2Proof.Machine
end

section
/-! PROOF. Where an operation can be found (R158, R230): the states a run can hold in, counted from the
state it goes on from, and the places of R251 in the same words. -/

namespace Sys2Proof.Machine

/-! ### The places of the sequencer -/

/-- The states in which a run of the sequencer that goes on from a state can hold, `rest` being those
after the poll (R158). -/
def ccsAfter (rest : List CcsState) : CcsState → List CcsState
  | .idle => [.idle]
  | .wrReg => [.wrReg]
  | .rdReg => [.rdReg]
  | .wrData => .wrData :: .wrLen :: .wrCmd :: .poll :: .pollWait :: rest
  | .wrLen => .wrLen :: .wrCmd :: .poll :: .pollWait :: rest
  | .wrCmd => .wrCmd :: .poll :: .pollWait :: rest
  | .poll => .poll :: .pollWait :: rest
  | .pollWait => .poll :: .pollWait :: rest
  | .rdData => [.rdData, .rdStatus]
  | .rdStatus => [.rdStatus]

theorem tailStates_cases (b : Byte) :
    tailStates b = [] ∨ tailStates b = [.rdStatus] ∨ tailStates b = [.rdData, .rdStatus] := by
  unfold tailStates
  split <;> simp

/-- Going on later reaches no state that the run could not reach from its start. -/
theorem ccsAfter_subset {b : Byte} {c d : CcsState} (h : d ∈ ccsAfter (tailStates b) c) :
    ∀ x ∈ ccsAfter (tailStates b) d, x ∈ ccsAfter (tailStates b) c := by
  revert d
  rcases tailStates_cases b with hb | hb | hb <;> rw [hb] <;> cases c <;> decide

/-- A run of the sequencer from any state it can be in (R158). -/
theorem ccsRun_ends (s : State) :
    CtrlEnds (Result.ofPoll s.cfg) (ccsAfter (tailStates s.opR) s.ccsState) s (ccsRun s) := by
  have status : ∀ {t : State} {L : List CcsState}, CtrlEnds Result.ofStatus L s t →
      CtrlEnds (Result.ofPoll s.cfg) L s t := fun h => h.mono (fun _ h => .inl h) fun _ h => h
  unfold ccsRun
  cases hc : s.ccsState with
  | idle =>
    exact (ctrlGoing_latch s s.ccsState s.statusR s.rdValR s.scR s.pollCnt).hold
      (by simp [hc, ccsAfter])
  | wrReg => exact status (runWrReg_ends s)
  | rdReg => exact status (runRdReg_ends s)
  | wrData => exact runWrData_ends s rfl rfl
  | wrLen => exact runWrLen_ends s rfl rfl
  | wrCmd => exact runWrCmd_ends s rfl rfl
  | poll => exact runPoll_ends s rfl rfl
  | pollWait => exact pollWait_ends rfl rfl fun u => runPoll_ends u
  | rdData => exact status (runRdData_ends s)
  | rdStatus => exact status (runRdStatus_ends s)

/-! ### The places of the assembler -/

/-- The states in which a run of the assembler that goes on from a state can hold, `locked` when the
lock is held by another agent (R230, R72). -/
def faAfter (locked : Bool) : FaState → List FaState
  | .idle => [.idle]
  | .sync => .sync :: .bulk :: lockStates locked
  | .bulk => .bulk :: lockStates locked
  | .validate => lockStates locked
  | .publish => lockStates locked

/-- A run of the assembler from any state it can be in (R230). -/
theorem faRun_ends (s : State) :
    DataEnds (Result.ofCapture s.cfg) (faAfter s.fbLock s.faState) s (faRun s) := by
  unfold faRun
  cases hf : s.faState with
  | idle =>
    exact (dataGoing_latch s s.faState s.asmBuf s.syncCnt s.pktIdx s.scratch s.crcR).hold
      (by simp [hf, faAfter])
  | sync => exact runSync_ends s rfl rfl
  | bulk => exact runBulk_ends s rfl rfl
  | validate => exact validateFrom_ends _ _ s rfl rfl
  | publish => exact runPublish_ends s

theorem faRun_asmBuf_wf {s : State} (hs : s.asmBuf.wf) : (faRun s).asmBuf.wf := by
  unfold faRun
  split
  · exact hs
  · exact (runSync_run s).asmBuf_wf hs
  · exact (runBulk_run s).asmBuf_wf hs
  · rwa [validateFrom_asmBuf]
  · rwa [runPublish_asmBuf]

/-! ### The places of an operation -/

/-- The state in which an operation enters the sequencer (R158). -/
def ccsEntry : Opcode → CcsState
  | .wrreg => .wrReg
  | .rdreg => .rdReg
  | .execute => .wrData
  | .set _ => .wrData
  | .get _ => .wrLen
  | .gboot => .rdStatus
  | .gifst => .rdStatus
  | .gstat => .rdStatus
  | .armtrig => .idle
  | .waittrig => .idle
  | .capture => .idle
  | .rdframe => .idle
  | .pval => .idle

/-- The states of the sequencer in which an operation can be found between two steps. -/
def ccsPlaces (o : Opcode) : List CcsState := ccsAfter (tailStates o.byte) (ccsEntry o)

/-- The states of the assembler in which an operation can be found between two steps; none for an
operation that ends in the step that accepts it. -/
def faPlaces : Opcode → List FaState
  | .capture => [.sync, .bulk]
  | .armtrig => []
  | .rdframe => []
  | .pval => []
  | _ => [.idle]

/-- An operation in flight where it can be found. -/
abbrev State.HoldsAs (o : Opcode) (s : State) : Prop :=
  s.opR = o.byte ∧ s.chanSel = chanOf o ∧ s.ccsState ∈ ccsPlaces o ∧ s.faState ∈ faPlaces o

theorem holds_of_byte {o : Opcode} {s : State} (h : s.opR = o.byte) :
    s.holds = true ↔
      s.chanSel = chanOf o ∧ s.ccsState ∈ ccsPlaces o ∧ s.faState ∈ faPlaces o := by
  unfold State.holds
  rw [h, ofByte?_byte]
  cases o <;> simp [chanOf, ccsPlaces, ccsEntry, ccsAfter, tailStates, faPlaces] <;> tauto

/-- The places of `State.holds`, by the operation in flight (R158, R230, R251). -/
theorem holds_iff (s : State) : s.holds = true ↔ ∃ o, s.HoldsAs o := by
  constructor
  · intro h
    cases ho : Opcode.ofByte? s.opR with
    | none => simp [State.holds, ho] at h
    | some o =>
      have hb := (byte_of_ofByte? ho).symm
      exact ⟨o, hb, (holds_of_byte hb).1 h⟩
  · rintro ⟨o, hb, h⟩
    exact (holds_of_byte hb).2 h

/-- Only CAPTURE is granted the data channel (R251). -/
theorem eq_capture_of_chanOf {o : Opcode} (h : chanOf o = .data) : o = .capture := by
  cases o <;> simp_all [chanOf]

/-- The assembler is idle while an operation holds the control channel (R251). -/
theorem faPlaces_of_ctrl {o : Opcode} (h : chanOf o = .ctrl) : faPlaces o = [.idle] := by
  cases o <;> simp_all [chanOf, faPlaces]

end Sys2Proof.Machine
end

section
/-! PROOF. The operations of the OP agent as one scheme: acceptance, the operand latches, the run
(R252). What `exec` can do is then said once for all of them. -/

namespace Sys2Proof.Machine

/-- What an operation latches before its first transaction (R24, R170, R210, R220). -/
def opLatch (i : Instr) (s : State) : State :=
  match i.opcode with
  | .wrreg => latchPayload i.tail { s with regR := i.selectorField }
  | .rdreg => { s with regR := i.selectorField }
  | .execute => latchPayload i.tail (latchCommand ⟨i.v0Field, i.v1Field⟩ s)
  | .set p =>
    latchPayload (toBe16 i.v0Field) (latchCommand (setCommand s.cfg p) { s with valR := i.v0Field })
  | .get p => latchCommand (getCommand s.cfg p) s
  | .capture => { s with syncCnt := 0 }
  | .armtrig => { s with trigArmed := true }
  | .pval => latchValidation i.tail s
  | _ => s

/-- The run of an operation from its first state on (R158, R210, R230, R254, R257); RDFRAME is not the
OP agent's (R253). -/
def opStart (i : Instr) (s : State) : State :=
  match i.opcode with
  | .wrreg => runWrReg s
  | .rdreg => runRdReg s
  | .execute => runExec s
  | .set _ => runWrData s
  | .get _ => runWrLen s
  | .gboot => runRdStatus s
  | .gifst => runRdStatus s
  | .gstat => runRdStatus s
  | .capture => runSync s
  | .armtrig => respond .done s
  | .waittrig => runWait s
  | .pval => respond (.verdict (validate i.tail)) s
  | .rdframe => s

theorem exec_eq_dispatch {i : Instr} (h : i.opcode ≠ .rdframe) (s : State) :
    exec i s = dispatch i.opcode (fun t => opStart i (opLatch i t)) s := by
  cases i with
  | rdframe k => exact absurd rfl h
  | _ => rfl

/-- RDFRAME sends one response and changes nothing (R232), and waits while the lock is held (R72). -/
theorem execRdframe_cases {k : Nat} {s t : State} (h : execRdframe k s = .next t) :
    t = s ∨ ∃ w data, t = emit (.frameResponse k w data) s := by
  unfold execRdframe at h
  split at h
  next => exact .inl (by cases h; rfl)
  next hl =>
    have hu : unlock (lock s) = s := by
      cases s
      simp_all [unlock, lock]
    simp only [hu] at h
    cases h
    split <;> exact .inr ⟨_, _, rfl⟩

/-- What `exec` can do: nothing while the OP agent is busy (R77, R252), a FRAME response (R253), or the
operation's run from acceptance on. -/
theorem exec_cases {i : Instr} {s t : State} (h : exec i s = .next t) :
    t = s ∨ (i.opcode = .rdframe ∧ ∃ k w data, t = emit (.frameResponse k w data) s)
      ∨ (s.opBusy = false ∧ i.opcode ≠ .rdframe
        ∧ t = opStart i (opLatch i (accept i.opcode s))) := by
  by_cases hi : i.opcode = .rdframe
  · cases i with
    | rdframe k =>
      rcases execRdframe_cases h with h | ⟨w, data, h⟩
      · exact .inl h
      · exact .inr (.inl ⟨rfl, k, w, data, h⟩)
    | _ => cases hi
  · rw [exec_eq_dispatch hi] at h
    rcases dispatch_cases h with ⟨-, h⟩ | ⟨hb, h⟩
    · exact .inl h
    · exact .inr (.inr ⟨hb, hi, h⟩)

/-- The operand latches are all a control-channel operation writes before its first transaction, and
each only where its operation uses it (R24; log entry 26). -/
theorem opLatch_of_ctrl {i : Instr} (h : chanOf i.opcode = .ctrl) (s : State) :
    ∃ reg id len v p n,
      opLatch i s = { s with
        regR := reg, cmdIdR := id, cmdLenR := len, valR := v, payR := p, payLenR := n }
      ∧ (i.opcode ≠ .wrreg → i.opcode ≠ .rdreg → reg = s.regR)
      ∧ (i.opcode ≠ .execute → (∀ p, i.opcode ≠ .get p ∧ i.opcode ≠ .set p) →
        id = s.cmdIdR ∧ len = s.cmdLenR)
      ∧ ((∀ p, i.opcode ≠ .set p) → v = s.valR)
      ∧ (i.opcode ≠ .wrreg → i.opcode ≠ .execute → (∀ p, i.opcode ≠ .set p) →
        p = s.payR ∧ n = s.payLenR) := by
  unfold opLatch
  cases ho : i.opcode with
  | capture => simp [ho, chanOf] at h
  | armtrig => simp [ho, chanOf] at h
  | waittrig => simp [ho, chanOf] at h
  | rdframe => simp [ho, chanOf] at h
  | pval => simp [ho, chanOf] at h
  | _ => exact ⟨_, _, _, _, _, _, rfl, by simp⟩

/-- CAPTURE accepted, its counter at 0 (R220). -/
abbrev captureBegun (s : State) : State := { accept .capture s with syncCnt := 0 }

/-- CAPTURE from acceptance on is the synchronisation step (R221). -/
theorem captureOp_eq {i : Instr} (h : i.opcode = .capture) (s : State) :
    opStart i (opLatch i (accept i.opcode s)) = runSync (captureBegun s) := by
  unfold opStart opLatch
  rw [h]

/-- A control-channel operation ends idle or holding in one of its places (R158, R279). -/
theorem opStart_ends {i : Instr} {s : State} (h : chanOf i.opcode = .ctrl)
    (hs : s.opR = i.opcode.byte) :
    CtrlEnds (Result.ofPoll s.cfg) (ccsPlaces i.opcode) s (opStart i s) := by
  have status : ∀ {t : State} {L : List CcsState}, CtrlEnds Result.ofStatus L s t →
      CtrlEnds (Result.ofPoll s.cfg) L s t := fun h => h.mono (fun _ h => .inl h) fun _ h => h
  unfold opStart
  cases ho : i.opcode with
  | wrreg => exact status (runWrReg_ends s)
  | rdreg => exact status (runRdReg_ends s)
  | execute => exact runExec_ends s rfl (hs.trans (by rw [ho]))
  | set p => exact runWrData_ends s rfl (hs.trans (by rw [ho]))
  | get p => exact runWrLen_ends s rfl (hs.trans (by rw [ho]))
  | gboot => exact status (runRdStatus_ends s)
  | gifst => exact status (runRdStatus_ends s)
  | gstat => exact status (runRdStatus_ends s)
  | capture => simp [ho, chanOf] at h
  | armtrig => simp [ho, chanOf] at h
  | waittrig => simp [ho, chanOf] at h
  | rdframe => simp [ho, chanOf] at h
  | pval => simp [ho, chanOf] at h

/-- A control-channel operation from acceptance on: the latches, then a run of the sequencer. -/
theorem ctrlOp_ends {i : Instr} (h : chanOf i.opcode = .ctrl) (s : State) :
    CtrlEnds (Result.ofPoll s.cfg) (ccsPlaces i.opcode) (opLatch i (accept i.opcode s))
      (opStart i (opLatch i (accept i.opcode s))) := by
  obtain ⟨reg, id, len, v, p, n, hu, -⟩ := opLatch_of_ctrl h (accept i.opcode s)
  rw [hu]
  exact opStart_ends (s := { accept i.opcode s with
    regR := reg, cmdIdR := id, cmdLenR := len, valR := v, payR := p, payLenR := n }) h rfl

end Sys2Proof.Machine
end

section
/-! PROOF. What a step can do: a reset, a turn that starts and continues no operation, the operation in
flight gone on with, or an operation begun (R21, R73). What it does to the buffers follows from the
runs. -/

namespace Sys2Proof.Machine

/-! ### The cases of a step -/

theorem step_of_stay {s t : State} (h : nextMove s = .stay t) : step s = .next t := by
  rw [step, h]

theorem step_of_run {i : Instr} {s t : State} (h : nextMove s = .run i t) : step s = exec i t := by
  rw [step, h]

/-- The OP agent's turn: the operation in flight goes on; or at most a request and its tail leave the
port and a refusal goes out; or an operation is to be executed (R252). -/
theorem opTurn_cases (s : State) :
    (s.opBusy = true ∧ opTurn s = .stay (resume s))
      ∨ (∃ ws pay new, opTurn s
        = .stay { s with opWords := ws, opPay := pay, trace := new ++ s.trace })
      ∨ (∃ i ws pay, opTurn s = .run i { s with opWords := ws, opPay := pay }) := by
  unfold opTurn
  split
  next hb => exact .inl ⟨hb, rfl⟩
  split
  next => exact .inr (.inl ⟨s.opWords, s.opPay, [], rfl⟩)
  next w rest hw =>
    split
    next => exact .inr (.inl ⟨s.opWords, s.opPay, [], rfl⟩)
    dsimp only
    split
    next i hi => exact .inr (.inr ⟨i, _, _, rfl⟩)
    next => exact .inr (.inl ⟨_, _, [_], rfl⟩)

/-- A FRAME port's turn: it waits, or is dropped, or a refusal goes out, or RDFRAME is to be executed
(R253). -/
theorem frameTurn_cases (k : Nat) (w : Word64) (s t : State) :
    frameTurn k w s t = .stay s
      ∨ (∃ new, frameTurn k w s t = .stay { t with trace := new ++ t.trace })
      ∨ (∃ i, frameTurn k w s t = .run i t) := by
  unfold frameTurn
  split
  next => exact .inr (.inl ⟨[], rfl⟩)
  split
  next i hi =>
    split
    next => exact .inl rfl
    next => exact .inr (.inr ⟨i, rfl⟩)
  next => exact .inr (.inl ⟨[_], rfl⟩)

/-- What a step can do. The turn taken leaves `sched` different from before, and a request taken leaves
its port. -/
inductive StepCase (s t : State) : Prop where
  /-- The core is reset (R301). -/
  | reset (l : List Turn) (turn : s.sched = .reset :: l) (next : t = resetCore { s with sched := l })
  /-- A wait, a refused request or an edge: only the ports, the trigger latch and the trace change. -/
  | quiet (l : List Turn) (ws : List Word64) (pay : List Byte) (armed pending : Bool)
      (new : List Event)
      (next : t = { s with
        sched := l, opWords := ws, opPay := pay, trigArmed := armed, trigPending := pending
        trace := new ++ s.trace })
  /-- The operation in flight goes on (R78). -/
  | resumed (l : List Turn) (busy : s.opBusy = true) (next : t = resume { s with sched := l })
  /-- A request is taken and its operation executed (R252, R253). -/
  | executed (i : Instr) (l : List Turn) (ws : List Word64) (pay : List Byte)
      (next : exec i { s with sched := l, opWords := ws, opPay := pay } = .next t)

/-- The OP agent's turn with the schedule `l` after it. -/
theorem StepCase.of_opTurn {s t : State} {l : List Turn}
    (hm : nextMove s = opTurn { s with sched := l }) (h : step s = .next t) : StepCase s t := by
  rcases opTurn_cases { s with sched := l } with ⟨hb, ho⟩ | ⟨ws, pay, new, ho⟩ | ⟨i, ws, pay, ho⟩ <;>
    rw [ho] at hm
  · rw [step_of_stay hm] at h
    exact .resumed l hb (by cases h; rfl)
  · rw [step_of_stay hm] at h
    exact .quiet l ws pay s.trigArmed s.trigPending new (by cases h; rfl)
  · rw [step_of_run hm] at h
    exact .executed i l ws pay h

theorem step_cases {s t : State} (h : step s = .next t) : StepCase s t := by
  rcases nextMove_cases s with ⟨hs, hm⟩ | ⟨l, -, hm⟩ | ⟨k, w, l, -, hm⟩ | ⟨l, -, hm⟩ | ⟨l, hs, hm⟩
  · exact .of_opTurn (l := s.sched) hm h
  · exact .of_opTurn hm h
  · rcases frameTurn_cases k w s { s with sched := l } with hf | ⟨new, hf⟩ | ⟨i, hf⟩ <;> rw [hf] at hm
    · rw [step_of_stay hm] at h
      exact .quiet s.sched s.opWords s.opPay s.trigArmed s.trigPending [] (by cases h; rfl)
    · rw [step_of_stay hm] at h
      exact .quiet l s.opWords s.opPay s.trigArmed s.trigPending new (by cases h; rfl)
    · rw [step_of_run hm] at h
      exact .executed i l s.opWords s.opPay h
  · rw [step_of_stay hm, edge_eq] at h
    exact .quiet l s.opWords s.opPay _ _ [] (by cases h; rfl)
  · rw [step_of_stay hm] at h
    exact .reset l hs (by cases h; rfl)

/-! ### The buffers in each case -/

/-- Configuration, lock and both buffers are as before. -/
structure SameBuffers (s t : State) : Prop where
  cfg : t.cfg = s.cfg
  fbLock : t.fbLock = s.fbLock
  asmBuf : t.asmBuf = s.asmBuf
  fb : t.fb = s.fb
  fbValid : t.fbValid = s.fbValid

theorem CtrlOnly.sameBuffers {s t : State} (h : CtrlOnly s t) : SameBuffers s t :=
  ⟨h.cfg, h.fbLock, h.asmBuf, h.fb, h.fbValid⟩

theorem SameBuffers.sameFrame {s t : State} (h : SameBuffers s t) : SameFrame s t :=
  ⟨h.fb, h.fbValid⟩

/-- WAITTRIG holds with nothing changed, or consumes the wake-up and responds (R257). -/
theorem runWait_cases (s : State) :
    runWait s = s ∨ runWait s = respond .done { s with trigPending := false } := by
  unfold runWait
  split
  · exact .inr rfl
  · exact .inl rfl

theorem ctrlOp_sameBuffers {i : Instr} (h : chanOf i.opcode = .ctrl) (s : State) :
    SameBuffers s (opStart i (opLatch i (accept i.opcode s))) := by
  have hr := (ctrlOp_ends h s).only
  obtain ⟨_, _, _, _, _, _, hu, -⟩ := opLatch_of_ctrl h (accept i.opcode s)
  rw [hu] at hr ⊢
  exact ⟨hr.cfg, hr.fbLock, hr.asmBuf, hr.fb, hr.fbValid⟩

/-- ARMTRIG, WAITTRIG and PVAL end in the step that accepts them, or WAITTRIG holds with nothing but
its acceptance done (R210, R254, R257). -/
theorem localOp_cases {i : Instr} (h : chanOf i.opcode = .none) (hi : i.opcode ≠ .rdframe)
    (s : State) : SameBuffers s (opStart i (opLatch i (accept i.opcode s))) ∧
      ((opStart i (opLatch i (accept i.opcode s))).Idle
        ∨ i.opcode = .waittrig ∧ opStart i (opLatch i (accept i.opcode s)) = accept .waittrig s) := by
  unfold opStart opLatch
  cases ho : i.opcode with
  | armtrig => exact ⟨⟨rfl, rfl, rfl, rfl, rfl⟩, .inl (respond_idle _ _)⟩
  | pval =>
    dsimp only
    rw [latchValidation_eq]
    exact ⟨⟨rfl, rfl, rfl, rfl, rfl⟩, .inl (respond_idle _ _)⟩
  | waittrig =>
    dsimp only
    rcases runWait_cases (accept .waittrig s) with hw | hw <;> rw [hw]
    · exact ⟨⟨rfl, rfl, rfl, rfl, rfl⟩, .inr ⟨rfl, rfl⟩⟩
    · exact ⟨⟨rfl, rfl, rfl, rfl, rfl⟩, .inl (respond_idle _ _)⟩
  | rdframe => exact absurd ho hi
  | _ => simp [ho, chanOf] at h

/-- Nothing but a published capture changes the FrameBuffer, and `asm_buf` stays canonical. -/
structure BufferEffect (s t : State) : Prop where
  cfg : t.cfg = s.cfg
  fbLock : t.fbLock = s.fbLock
  asmBuf_wf : s.asmBuf.wf → t.asmBuf.wf
  frame : SameFrame s t ∨ (t.fb = t.asmBuf ∧ t.fbValid = true
    ∧ (∃ mid, t.trace = .opResponse Result.updated.word :: (mid ++ s.trace))
    ∧ (t.opR = Opcode.capture.byte ∨ s.chanSel = .data ∧ t.opR = s.opR))

theorem SameBuffers.effect {s t : State} (h : SameBuffers s t) : BufferEffect s t :=
  ⟨h.cfg, h.fbLock, fun hw => by rwa [h.asmBuf], .inl h.sameFrame⟩

theorem BufferEffect.buffersWf {s t : State} (h : BufferEffect s t) (hs : s.BuffersWf) :
    t.BuffersWf := by
  obtain ⟨ha, hb⟩ := hs
  refine ⟨h.asmBuf_wf ha, ?_⟩
  rcases h.frame with ⟨hf, -⟩ | ⟨hf, -⟩
  · rwa [hf]
  · rw [hf]; exact h.asmBuf_wf ha

theorem exec_effect {i : Instr} {s t : State} (h : exec i s = .next t) : BufferEffect s t := by
  rcases exec_cases h with rfl | ⟨-, k, w, data, rfl⟩ | ⟨-, hi, rfl⟩
  · exact SameBuffers.effect ⟨rfl, rfl, rfl, rfl, rfl⟩
  · exact SameBuffers.effect ⟨rfl, rfl, rfl, rfl, rfl⟩
  cases hc : chanOf i.opcode with
  | ctrl => exact (ctrlOp_sameBuffers hc s).effect
  | none => exact (localOp_cases hc hi s).1.effect
  | data =>
    rw [captureOp_eq (eq_capture_of_chanOf hc)]
    have hd := runSync_ends (captureBegun s) rfl rfl
    exact ⟨hd.only.cfg, hd.only.fbLock, (runSync_run (captureBegun s)).asmBuf_wf,
      hd.frame.imp id fun ⟨hf, hv, ht⟩ => ⟨hf, hv, ht, .inl hd.only.opR⟩⟩

/-- What goes on without a channel is WAITTRIG's wait (R257). -/
theorem resume_none_cases {s : State} (h : s.chanSel = .none) :
    resume s = s ∨ resume s = respond .done { s with trigPending := false } := by
  unfold resume
  rw [h]
  dsimp only
  split
  · exact runWait_cases s
  · exact .inl rfl

theorem resume_of_ctrl {s : State} (h : s.chanSel = .ctrl) : resume s = ccsRun s := by
  rw [resume, h]

theorem resume_of_data {s : State} (h : s.chanSel = .data) : resume s = faRun s := by
  rw [resume, h]

theorem resume_none_sameBuffers {s : State} (h : s.chanSel = .none) : SameBuffers s (resume s) := by
  rcases resume_none_cases h with hr | hr <;> rw [hr] <;> exact ⟨rfl, rfl, rfl, rfl, rfl⟩

theorem resume_effect (s : State) : BufferEffect s (resume s) := by
  cases hc : s.chanSel with
  | none => exact (resume_none_sameBuffers hc).effect
  | ctrl =>
    rw [resume_of_ctrl hc]
    exact (ccsRun_ends s).only.sameBuffers.effect
  | data =>
    rw [resume_of_data hc]
    have hd := faRun_ends s
    exact ⟨hd.only.cfg, hd.only.fbLock, faRun_asmBuf_wf,
      hd.frame.imp id fun ⟨hf, hv, ht⟩ => ⟨hf, hv, ht, .inr ⟨hc, hd.only.opR⟩⟩⟩

/-- A step is a reset, or it has no effect on the buffers but that of a run. -/
theorem step_effect {s t : State} (h : step s = .next t) :
    (∃ l, s.sched = .reset :: l ∧ t = resetCore { s with sched := l }) ∨ BufferEffect s t := by
  cases step_cases h with
  | reset l turn next => exact .inl ⟨l, turn, next⟩
  | quiet l ws pay armed pending new next =>
    rw [next]
    exact .inr (SameBuffers.effect ⟨rfl, rfl, rfl, rfl, rfl⟩)
  | resumed l busy next =>
    rw [next]
    obtain ⟨cfg, fbLock, asmBuf_wf, frame⟩ := resume_effect { s with sched := l }
    exact .inr ⟨cfg, fbLock, asmBuf_wf, frame⟩
  | executed i l ws pay next =>
    obtain ⟨cfg, fbLock, asmBuf_wf, frame⟩ := exec_effect next
    exact .inr ⟨cfg, fbLock, asmBuf_wf, frame⟩

end Sys2Proof.Machine
end

section
/-! PROOF. The statements about the whole machine: the buffers, the configuration and the invariant
through a step, and the state after reset. -/

namespace Sys2Proof.Machine

/-! ### The invariant, by the cases of a step -/

/-- Idle, or an operation in flight where it can be found. -/
abbrev State.Placed (s : State) : Prop := s.Idle ∨ (s.opBusy = true ∧ s.holds = true)

theorem inv_of_idle {s : State} (hb : s.opBusy = false) (hs : s.Inv) : s.Idle := by
  obtain ⟨⟨-, hp, -⟩, -⟩ := hs
  rcases hp with hp | ⟨hp, -⟩
  · exact hp
  · simp [hb] at hp

/-- With a channel granted, an operation is in flight in one of its places (R251). -/
theorem holdsAs_of_chanSel {s : State} (hs : s.Inv) (hc : s.chanSel ≠ .none) :
    ∃ o, s.HoldsAs o := by
  obtain ⟨⟨-, hp, -⟩, -⟩ := hs
  rcases hp with ⟨-, hn, -⟩ | ⟨-, hh⟩
  · exact absurd hn hc
  · exact (holds_iff s).1 hh

/-- A move that leaves the buffers alone keeps the invariant when it ends in a place of its operation
and does not enter `F_BULK`. -/
theorem inv_of_sameBuffers {s t : State} (hs : s.Inv) (h : SameBuffers s t) (hp : t.Placed)
    (hf : t.faState = .bulk → s.faState = .bulk) : t.Inv := by
  obtain ⟨⟨hl, -, hk⟩, ⟨ha, hb⟩, hv⟩ := hs
  refine ⟨⟨h.fbLock.trans hl, hp, fun ht => ?_⟩, ⟨?_, ?_⟩,
    FrameBufferValid.of_sameFrame hv h.sameFrame⟩
  · rw [h.asmBuf]; exact hk (hf ht)
  · rwa [h.asmBuf]
  · rwa [h.fb]

/-- A run of the sequencer that holds only in places of its operation ends in one (R158). -/
theorem CtrlEnds.placed {Q : Result → Prop} {L : List CcsState} {o : Opcode} {s t : State}
    (h : CtrlEnds Q L s t) (hL : ∀ c ∈ L, c ∈ ccsPlaces o) (ho : chanOf o = .ctrl)
    (hb : s.opBusy = true) (hr : s.opR = o.byte) (hc : s.chanSel = .ctrl)
    (hf : s.faState = .idle) : t.Placed ∧ t.faState = .idle := by
  rcases h.place with hi | ⟨hb', hc', hf', hl⟩
  · exact ⟨.inl hi, hi.2.2.2⟩
  · have hf' := hf'.trans hf
    refine ⟨.inr ⟨hb'.trans hb, (holds_iff t).2 ⟨o, h.only.opR.trans hr, ?_, hL _ hl, ?_⟩⟩, hf'⟩
    · rw [hc', hc, ho]
    · simp [hf', faPlaces_of_ctrl ho]

/-- A run of the assembler ends in a place of CAPTURE, the lock being free (R230, R72). -/
theorem DataEnds.placed {Q : Result → Prop} {L : List FaState} {s t : State}
    (h : DataEnds Q L s t) (hL : ∀ f ∈ L, f ∈ faPlaces .capture) (hb : s.opBusy = true)
    (hr : s.opR = Opcode.capture.byte) (hc : s.chanSel = .data) (hi : s.ccsState = .idle) :
    t.Placed := by
  rcases h.place with hp | ⟨hb', hc', hi', hl⟩
  · exact .inl hp
  · refine .inr ⟨hb'.trans hb,
      (holds_iff t).2 ⟨.capture, h.only.opR.trans hr, hc'.trans hc, ?_, hL _ hl⟩⟩
    simp [hi', hi, ccsPlaces, ccsEntry, ccsAfter]

/-- A run of the assembler keeps the invariant when it keeps the buffers' part of it. -/
theorem inv_of_effect {s t : State} (hs : s.Inv) (he : BufferEffect s t) (hp : t.Placed)
    (hk : BulkStarted t ∧ FrameBufferValid t) : t.Inv := by
  obtain ⟨⟨hl, -, -⟩, hw, -⟩ := hs
  exact ⟨⟨he.fbLock.trans hl, hp, hk.1⟩, he.buffersWf hw, hk.2⟩

theorem exec_keeps_inv {i : Instr} {s t : State} (hs : s.Inv) (h : exec i s = .next t) : t.Inv := by
  rcases exec_cases h with rfl | ⟨-, k, w, data, rfl⟩ | ⟨hb, hi, rfl⟩
  · exact hs
  · exact hs
  obtain ⟨-, -, hccs, hfa⟩ := inv_of_idle hb hs
  cases hc : chanOf i.opcode with
  | ctrl =>
    have he := ctrlOp_ends hc s
    obtain ⟨_, _, _, _, _, _, hu, -⟩ := opLatch_of_ctrl hc (accept i.opcode s)
    obtain ⟨hp, hf⟩ := he.placed (fun _ h => h) hc (by rw [hu]; rfl) (by rw [hu]; rfl)
      (by rw [hu]; exact hc) (by rw [hu]; exact hfa)
    exact inv_of_sameBuffers hs (ctrlOp_sameBuffers hc s) hp fun hk => by simp [hf] at hk
  | none =>
    obtain ⟨hsame, hidle | ⟨ho, hw⟩⟩ := localOp_cases hc hi s
    · exact inv_of_sameBuffers hs hsame (.inl hidle) fun hk => by simp [hidle.2.2.2] at hk
    · rw [hw] at hsame ⊢
      refine inv_of_sameBuffers hs hsame (.inr ⟨rfl, (holds_iff _).2 ⟨.waittrig, rfl, rfl, ?_, ?_⟩⟩) id
      · simp [hccs, ccsPlaces, ccsEntry, ccsAfter]
      · simp [hfa, faPlaces]
  | data =>
    have he := exec_effect h
    obtain ⟨⟨hl, -, -⟩, ⟨ha, -⟩, hv⟩ := id hs
    rw [captureOp_eq (eq_capture_of_chanOf hc)] at he ⊢
    have hd := runSync_ends (captureBegun s) rfl hl
    refine inv_of_effect hs he (hd.placed ?_ rfl rfl rfl hccs)
      ((runSync_run (captureBegun s)).frame_kept ha hv)
    simp [lockStates, faPlaces]

/-- CAPTURE held in `F_SYNC` or `F_BULK` goes on (R220 to R228). -/
theorem faRun_keeps_frame {s : State} (hs : s.Inv) (hf : s.faState ∈ faPlaces .capture) :
    BulkStarted (faRun s) ∧ FrameBufferValid (faRun s) := by
  obtain ⟨⟨-, -, hk⟩, ⟨ha, -⟩, hv⟩ := hs
  unfold faRun
  split
  next h => simp [h, faPlaces] at hf
  next => exact (runSync_run s).frame_kept ha hv
  next h =>
    exact ⟨(runBulk_run s).bulkStarted (hk h), (runBulk_run s).frameBufferValid ha (hk h) hv⟩
  next h => simp [h, faPlaces] at hf
  next h => simp [h, faPlaces] at hf

theorem faAfter_subset {f : FaState} (hf : f ∈ faPlaces .capture) :
    ∀ g ∈ faAfter false f, g ∈ faPlaces .capture := by
  cases f <;> simp_all [faAfter, lockStates, faPlaces]

theorem resume_keeps_inv {s : State} (hs : s.Inv) (hb : s.opBusy = true) : (resume s).Inv := by
  cases hc : s.chanSel with
  | none =>
    have hsame := resume_none_sameBuffers hc
    rcases resume_none_cases hc with hr | hr <;> rw [hr] at hsame ⊢
    · exact hs
    · exact inv_of_sameBuffers hs hsame (.inl (respond_idle _ _)) fun hk => by cases hk
  | ctrl =>
    obtain ⟨o, hr, ho, hccs, hfa⟩ := holdsAs_of_chanSel hs (by simp [hc])
    have ho : chanOf o = .ctrl := ho.symm.trans hc
    rw [faPlaces_of_ctrl ho, List.mem_singleton] at hfa
    have he := ccsRun_ends s
    rw [resume_of_ctrl hc]
    rw [hr] at he
    obtain ⟨hp, hf⟩ := he.placed (ccsAfter_subset hccs) ho hb hr hc hfa
    exact inv_of_sameBuffers hs he.only.sameBuffers hp fun hk => by simp [hf] at hk
  | data =>
    obtain ⟨o, hr, ho, hccs, hfa⟩ := holdsAs_of_chanSel hs (by simp [hc])
    obtain rfl := eq_capture_of_chanOf (ho.symm.trans hc)
    have he := resume_effect s
    have hd := faRun_ends s
    rw [hs.1.1] at hd
    rw [resume_of_data hc] at he ⊢
    refine inv_of_effect hs he (hd.placed (faAfter_subset hfa) hb hr hc ?_) (faRun_keeps_frame hs hfa)
    simpa [ccsPlaces, ccsEntry, ccsAfter] using hccs

/-- Settles O51: idle, unlocked, both buffers empty (log entries 9 and 10), and no valid frame. -/
theorem resetMeetsTheInvariant : Obligations.ResetMeetsTheInvariant := by
  unfold Obligations.ResetMeetsTheInvariant
  intro c
  refine ⟨⟨rfl, .inl ⟨rfl, rfl, rfl, rfl⟩, ?bulk⟩, ⟨Memory.wf_nil, Memory.wf_nil⟩, ?frame⟩
  case bulk => exact fun h => nomatch h
  case frame => exact fun h => nomatch h

/-- Settles O52: a reset ends in the invariant, a quiet turn touches nothing it speaks of, and the
operation goes on or begins by `resume_keeps_inv` and `exec_keeps_inv`; that no run leaves the lock
held is log entry 15. -/
theorem stepKeepsTheInvariant : Obligations.StepKeepsTheInvariant := by
  unfold Obligations.StepKeepsTheInvariant
  intro s t hs h
  cases step_cases h with
  | reset l turn next =>
    rw [next, resetCore]
    split
    · exact hs
    · exact resetMeetsTheInvariant s.cfg
  | quiet l ws pay armed pending new next => rw [next]; exact hs
  | resumed l busy next =>
    rw [next]
    exact resume_keeps_inv (s := { s with sched := l }) hs busy
  | executed i l ws pay next =>
    exact exec_keeps_inv (s := { s with sched := l, opWords := ws, opPay := pay }) hs next

/-! ### The other statements about every step -/

theorem resetCore_cfg (s : State) : (resetCore s).cfg = s.cfg := by
  unfold resetCore
  split <;> rfl

theorem resetCore_buffersWf {s : State} (hs : s.BuffersWf) : (resetCore s).BuffersWf := by
  unfold resetCore
  split
  · exact hs
  · exact ⟨Memory.wf_nil, Memory.wf_nil⟩

/-- Settles O53: both buffers are empty after a reset, and every other step keeps their form by the
effect of its run. -/
theorem stepKeepsBuffersCanonical : Obligations.StepKeepsBuffersCanonical := by
  unfold Obligations.StepKeepsBuffersCanonical
  intro s t hs h
  rcases step_effect h with ⟨l, -, rfl⟩ | he
  · exact resetCore_buffersWf (s := { s with sched := l }) hs
  · exact he.buffersWf hs

/-- Settles O54: a reset copies the configuration, and no run writes it. -/
theorem configurationNeverChanges : Obligations.ConfigurationNeverChanges := by
  unfold Obligations.ConfigurationNeverChanges
  intro s t h
  rcases step_effect h with ⟨l, -, rfl⟩ | he
  · exact resetCore_cfg { s with sched := l }
  · exact he.cfg

/-- Settles O55: the effect of a step's run is a frame kept or published; what publishes is CAPTURE,
begun in this step, or held on the data channel, which under the invariant only CAPTURE is granted. -/
theorem frameBufferChangesOnlyByPublishing : Obligations.FrameBufferChangesOnlyByPublishing := by
  unfold Obligations.FrameBufferChangesOnlyByPublishing
  intro s t hr h
  rcases step_effect h with ⟨l, hl, -⟩ | he
  · exact absurd hl (hr l)
  rcases he.frame with hsame | ⟨hf, hv, ht, ho⟩
  · exact ⟨fun hv => hsame.2.trans hv, .inl hsame⟩
  · refine ⟨fun _ => hv, .inr ⟨hv, hf, ht, fun hs => ?_⟩⟩
    rcases ho with ho | ⟨hc, ho⟩
    · exact ho
    · obtain ⟨o, hb, hch, -⟩ := holdsAs_of_chanSel hs (by simp [hc])
      obtain rfl := eq_capture_of_chanOf (hch.symm.trans hc)
      exact ho.trans hb

/-- Settles O49: R50's values are those `State.resetWith` lists, and with no turn scheduled and no
word at the OP port the next step is the OP agent's wait. -/
theorem resetValues : Obligations.ResetValues := by
  unfold Obligations.ResetValues
  refine ⟨fun c => ⟨rfl, rfl, rfl, rfl, rfl, rfl, rfl, rfl, rfl, ?waits⟩, rfl⟩
  case waits => exact step_of_stay rfl

end Sys2Proof.Machine
end

section
/-! PROOF. The frames of the control-channel operations and of CAPTURE: which latch a run of the
sequencer can write, by the states it passes through (R24, R158). -/

namespace Sys2Proof.Machine

open Sys2Proof.Claims

/-! ### Latches that no transaction and no response writes -/

/-- `f` reads nothing that a transaction on the control bus, a response or a change of state writes. -/
structure BusFree {α : Type} (f : State → α) : Prop where
  answered : ∀ (s : State) (w : List WriteAnswer) (r : List ReadAnswer) (tr : List Event),
    f { s with cbWriteRsp := w, cbReadRsp := r, trace := tr } = f s
  responded : ∀ (r : Result) (s : State), f (respond r s) = f s
  entered : ∀ (s : State) (c : CcsState), f { s with ccsState := c } = f s

section Keeps

variable {α : Type} {f : State → α} (hf : BusFree f)
include hf

/-- A register write keeps what the hold and the continuation keep. -/
theorem BusFree.onReply_writeReg {reg : Reg} {p : List Byte} {s hold : State}
    {go : Unit → State → State} (hh : f hold = f s)
    (hgo : ∀ u t, t.opR = s.opR → f t = f s → f (go u t) = f s) :
    f (onReply (writeReg reg p s) hold .ctrlBusError go) = f s := by
  have sent : ∀ l tr, f { s with cbWriteRsp := l, trace := tr } = f s := fun l tr =>
    hf.answered s l s.cbReadRsp tr
  obtain h | ⟨a, l, h⟩ : s.cbWriteRsp = [] ∨ ∃ a l, s.cbWriteRsp = a :: l := by
    cases s.cbWriteRsp <;> simp
  · rw [writeReg_wait h]; exact hh
  · cases a with
    | err => rw [writeReg_err h]; exact (hf.responded _ _).trans (sent _ _)
    | ok => rw [writeReg_ok h]; exact hgo _ _ rfl (sent _ _)

/-- A register read keeps what the hold and the continuation keep. -/
theorem BusFree.onReply_readReg {reg : Reg} {s hold : State} {go : Half → State → State}
    (hh : f hold = f s) (hgo : ∀ v t, t.opR = s.opR → f t = f s → f (go v t) = f s) :
    f (onReply (readReg reg s) hold .ctrlBusError go) = f s := by
  have got : ∀ l tr, f { s with cbReadRsp := l, trace := tr } = f s := fun l tr =>
    hf.answered s s.cbWriteRsp l tr
  obtain h | ⟨a, l, h⟩ : s.cbReadRsp = [] ∨ ∃ a l, s.cbReadRsp = a :: l := by
    cases s.cbReadRsp <;> simp
  · rw [readReg_wait h]; exact hh
  · cases a with
    | err => rw [readReg_err h]; exact (hf.responded _ _).trans (got _ _)
    | ok b0 b1 => rw [readReg_ok h]; exact hgo _ _ rfl (got _ _)

theorem BusFree.runWrReg_eq (s : State) : f (runWrReg s) = f s :=
  (hf.onReply_writeReg rfl fun _ _ _ ht => (hf.responded _ _).trans ht).trans (hf.entered s .wrReg)

theorem BusFree.runRdReg_eq (hv : ∀ (s : State) (v : Half), f { s with rdValR := v } = f s)
    (s : State) : f (runRdReg s) = f s :=
  (hf.onReply_readReg rfl fun v t _ ht => (hf.responded _ _).trans ((hv t v).trans ht)).trans
    (hf.entered s .rdReg)

theorem BusFree.runRdStatus_eq (hst : ∀ (s : State) (v : Half), f { s with statusR := v } = f s)
    {s : State} (hend : ∀ u : State, u.opR = s.opR → f (finishStatus u) = f u) :
    f (runRdStatus s) = f s :=
  (hf.onReply_readReg (s := { s with ccsState := .rdStatus }) rfl fun v t ho ht =>
    (hend { t with statusR := v } ho).trans ((hst t v).trans ht)).trans
    (hf.entered s .rdStatus)

/-- GBOOT and GIFST only respond (R150, R151). -/
theorem BusFree.finishStatus_of_query {s : State}
    (ho : s.opR = Opcode.gboot.byte ∨ s.opR = Opcode.gifst.byte) : f (finishStatus s) = f s := by
  unfold finishStatus
  rcases ho with ho | ho <;> rw [ho, ofByte?_byte] <;> exact hf.responded _ _

/-- Every other operation latches `sc_r` and responds (R152, R170). -/
theorem BusFree.finishStatus_eq (hsc : ∀ s, f (latchStatusCode s) = f s) (s : State) :
    f (finishStatus s) = f s := by
  unfold finishStatus
  split
  · exact hf.responded _ _
  · exact hf.responded _ _
  · exact (hf.responded _ _).trans (hsc s)
  · exact (hf.responded _ _).trans (hsc s)

variable (hpoll : ∀ (s : State) (v : Half) (n m : Nat) (tr : List Event),
    f { s with statusR := v, pollCnt := n, timerRsp := m, trace := tr } = f s)
  {b : Byte} (hafter : ∀ s : State, s.opR = b → f (afterPoll s) = f s)
include hpoll

/-- A poll wait keeps what the next poll keeps (R158). -/
theorem BusFree.pollWait_eq {poll : State → State}
    (hp : ∀ u : State, u.opR = b → f (poll u) = f u) {s : State} (ho : s.opR = b) :
    f (pollWait poll s) = f s := by
  rcases pollWait_cases poll s with ⟨-, h⟩ | ⟨n, -, h⟩ <;> rw [h]
  · exact hf.entered s _
  · refine Eq.trans (hp _ ?_) ?_
    · exact ho
    · exact (hpoll { s with ccsState := .pollWait } s.statusR s.pollCnt n _).trans (hf.entered s _)

include hafter

/-- The poll loop keeps what a poll and the steps after it keep (R147). -/
theorem BusFree.pollLoop_eq (n : Nat) {s : State} (ho : s.opR = b) : f (pollLoop n s) = f s := by
  induction n generalizing s with
  | zero => exact hf.entered s .poll
  | succ n ih =>
    refine (hf.onReply_readReg (s := { s with ccsState := .poll }) rfl fun v t ht hft => ?_).trans
      (hf.entered s .poll)
    have hu : f { t with statusR := v, pollCnt := t.pollCnt + 1 }
        = f { s with ccsState := .poll } := (hpoll t v _ t.timerRsp t.trace).trans hft
    refine Eq.trans ?_ hu
    have hb : { t with statusR := v, pollCnt := t.pollCnt + 1 }.opR = b := ht.trans ho
    dsimp only
    split_ifs
    · exact hafter _ hb
    · exact hf.responded _ _
    · exact hf.pollWait_eq hpoll (fun _ hu => ih hu) hb

theorem BusFree.runWrCmd_eq {s : State} (ho : s.opR = b) : f (runWrCmd s) = f s :=
  (hf.onReply_writeReg (s := { s with ccsState := .wrCmd }) rfl fun _ t ht hft =>
    (hf.pollLoop_eq hpoll hafter _ (s := { t with pollCnt := 0 }) (ht.trans ho)).trans
      ((hpoll t t.statusR 0 t.timerRsp t.trace).trans hft)).trans (hf.entered s .wrCmd)

theorem BusFree.runWrLen_eq {s : State} (ho : s.opR = b) : f (runWrLen s) = f s :=
  (hf.onReply_writeReg (s := { s with ccsState := .wrLen }) rfl fun _ _ ht hft =>
    (hf.runWrCmd_eq hpoll hafter (ht.trans ho)).trans hft).trans (hf.entered s .wrLen)

theorem BusFree.runWrData_eq {s : State} (ho : s.opR = b) : f (runWrData s) = f s :=
  (hf.onReply_writeReg (s := { s with ccsState := .wrData }) rfl fun _ _ ht hft =>
    (hf.runWrLen_eq hpoll hafter (ht.trans ho)).trans hft).trans (hf.entered s .wrData)

theorem BusFree.runExec_eq {s : State} (ho : s.opR = b) : f (runExec s) = f s := by
  unfold runExec
  split
  · exact hf.runWrLen_eq hpoll hafter ho
  · exact hf.runWrData_eq hpoll hafter ho

end Keeps

/-! ### Which operations write the latches of the runs -/

section Latches

variable {i : Instr} {s : State} (hc : chanOf i.opcode = .ctrl) (ho : s.opR = i.opcode.byte)
/-- WRREG and RDREG read no STATUS into `status_r` (R140, R142; log entry 11). -/
theorem opStart_statusR (h : i.opcode = .wrreg ∨ i.opcode = .rdreg) :
    (opStart i s).statusR = s.statusR := by
  have hf : BusFree State.statusR := ⟨fun _ _ _ _ => rfl, fun _ _ => rfl, fun _ _ => rfl⟩
  unfold opStart
  rcases h with hi | hi <;> rw [hi]
  · exact hf.runWrReg_eq s
  · exact hf.runRdReg_eq (fun _ _ => rfl) s

include hc

/-- Only EXEC, SET_x and GET_x poll (R144, R170). -/
theorem opStart_pollCnt (h : i.opcode ≠ .execute)
    (hp : ∀ p, i.opcode ≠ .get p ∧ i.opcode ≠ .set p) :
    (opStart i s).pollCnt = s.pollCnt ∧ (opStart i s).timerRsp = s.timerRsp := by
  have hf : BusFree fun s : State => (s.pollCnt, s.timerRsp) :=
    ⟨fun _ _ _ _ => rfl, fun _ _ => rfl, fun _ _ => rfl⟩
  have status : ∀ s : State, ((runRdStatus s).pollCnt, (runRdStatus s).timerRsp)
      = (s.pollCnt, s.timerRsp) := fun s =>
    hf.runRdStatus_eq (fun _ _ => rfl) fun u _ => hf.finishStatus_eq (fun _ => rfl) u
  rw [← Prod.mk.injEq]
  unfold opStart
  cases hi : i.opcode with
  | wrreg => exact hf.runWrReg_eq s
  | rdreg => exact hf.runRdReg_eq (fun _ _ => rfl) s
  | gboot => exact status s
  | gifst => exact status s
  | gstat => exact status s
  | execute => exact absurd hi h
  | set p => exact absurd hi (hp p).2
  | get p => exact absurd hi (hp p).1
  | _ => simp [hi, chanOf] at hc

include ho

/-- Only RDREG and GET_x read a value (R142, R170; log entry 11). -/
theorem opStart_rdValR (h : i.opcode ≠ .rdreg) (hp : ∀ p, i.opcode ≠ .get p) :
    (opStart i s).rdValR = s.rdValR := by
  have hf : BusFree State.rdValR := ⟨fun _ _ _ _ => rfl, fun _ _ => rfl, fun _ _ => rfl⟩
  have status : ∀ s : State, (runRdStatus s).rdValR = s.rdValR := fun s =>
    hf.runRdStatus_eq (fun _ _ => rfl) fun u _ => hf.finishStatus_eq (fun _ => rfl) u
  unfold opStart
  cases hi : i.opcode with
  | wrreg => exact hf.runWrReg_eq s
  | gboot => exact status s
  | gifst => exact status s
  | gstat => exact status s
  | execute =>
    refine hf.runExec_eq (fun _ _ _ _ _ => rfl) (fun u hu => ?_) ho
    rw [afterPoll, hu, hi, ofByte?_byte]
    rfl
  | set p =>
    refine hf.runWrData_eq (fun _ _ _ _ _ => rfl) (fun u hu => ?_) ho
    rw [afterPoll, hu, hi, ofByte?_byte]
    exact status u
  | rdreg => exact absurd hi h
  | get p => exact absurd hi (hp p)
  | _ => simp [hi, chanOf] at hc

/-- Only GSTAT, SET_x and GET_x latch a status code (R152, R170; log entry 12). -/
theorem opStart_scR (h : i.opcode ≠ .gstat) (hp : ∀ p, i.opcode ≠ .get p ∧ i.opcode ≠ .set p) :
    (opStart i s).scR = s.scR := by
  have hf : BusFree State.scR := ⟨fun _ _ _ _ => rfl, fun _ _ => rfl, fun _ _ => rfl⟩
  unfold opStart
  cases hi : i.opcode with
  | wrreg => exact hf.runWrReg_eq s
  | rdreg => exact hf.runRdReg_eq (fun _ _ => rfl) s
  | gboot =>
    exact hf.runRdStatus_eq (fun _ _ => rfl) fun u hu =>
      hf.finishStatus_of_query (.inl (by rw [hu, ho, hi]))
  | gifst =>
    exact hf.runRdStatus_eq (fun _ _ => rfl) fun u hu =>
      hf.finishStatus_of_query (.inr (by rw [hu, ho, hi]))
  | execute =>
    refine hf.runExec_eq (fun _ _ _ _ _ => rfl) (fun u hu => ?_) ho
    rw [afterPoll, hu, hi, ofByte?_byte]
    rfl
  | gstat => exact absurd hi h
  | set p => exact absurd hi (hp p).2
  | get p => exact absurd hi (hp p).1
  | _ => simp [hi, chanOf] at hc

end Latches

/-- Settles O43: the run of the sequencer leaves alone what `CtrlOnly` lists, each operand latch is
written by `opLatch` only where its operation uses it, and the latches of the runs only by the
operations that reach the state which writes them. -/
theorem controlOperationsFrame : Obligations.ControlOperationsFrame := by
  unfold Obligations.ControlOperationsFrame
  intro i s t hc h
  rcases exec_cases h with rfl | ⟨hi, -⟩ | ⟨-, -, rfl⟩
  · simp [SameSurroundings, SameBytes]
  · rw [hi] at hc; cases hc
  have hr := (ctrlOp_ends hc s).only
  obtain ⟨reg, id, len, v, p, n, hu, hreg, hcmd, hval, hpay⟩ :=
    opLatch_of_ctrl hc (accept i.opcode s)
  rw [hu] at hr ⊢
  refine ⟨⟨hr.cfg, hr.fbLock, hr.sched, hr.opWords, hr.opPay⟩, fun a => ⟨?fbBytes, ?asmBytes⟩,
    hr.asmBuf, hr.fb, hr.fbValid, hr.trigArmed, hr.trigPending, hr.syncCnt, hr.pktIdx, hr.crcR,
    hr.scratch, hr.dbRsp, hr.stream, ?regR, ?poll, ?valR, ?payR, ?rdValR, ?scR, ?statusR⟩
  case fbBytes => rw [hr.fb]; rfl
  case asmBytes => rw [hr.asmBuf]; rfl
  case regR => exact fun h1 h2 => hr.regR.trans (hreg h1 h2)
  case poll =>
    intro h1 h2
    obtain ⟨hid, hlen⟩ := hcmd h1 h2
    exact ⟨hr.cmdIdR.trans hid, hr.cmdLenR.trans hlen, opStart_pollCnt hc h1 h2⟩
  case valR => exact fun h1 => hr.valR.trans (hval h1)
  case payR =>
    intro h1 h2 h3
    obtain ⟨hp, hn⟩ := hpay h1 h2 h3
    exact ⟨hr.payR.trans hp, hr.payLenR.trans hn⟩
  case rdValR => exact fun h1 h2 => opStart_rdValR hc rfl h1 h2
  case scR => exact fun h1 h2 => opStart_scR hc rfl h1 h2
  case statusR => exact fun h1 => opStart_statusR h1

/-- Settles O44: the run of the assembler leaves alone what `DataOnly` lists and publishes only with
`Updated`; where `asm_buf` can differ is read off where the synchronisation step ended. -/
theorem captureFrame : Obligations.CaptureFrame := by
  unfold Obligations.CaptureFrame
  intro s t h
  rcases exec_cases h with rfl | ⟨hi, -⟩ | ⟨-, -, rfl⟩
  · simp [SameSurroundings]
  · cases hi
  rw [captureOp_eq rfl]
  have hd := runSync_ends (captureBegun s) rfl rfl
  have hr := hd.only
  have hs := runSync_run (captureBegun s)
  exact ⟨⟨hr.cfg, hr.fbLock, hr.sched, hr.opWords, hr.opPay⟩, hr.trigArmed, hr.trigPending, hr.regR,
    hr.cmdIdR, hr.cmdLenR, hr.valR, hr.payR, hr.payLenR, hr.statusR, hr.rdValR, hr.scR, hr.pollCnt,
    hr.cbWriteRsp, hr.cbReadRsp, hr.timerRsp, fun _ ha => hs.read_of_ge ha,
    fun ht _ ha => hs.read_of_bulk ht ha, hs.asmBuf_eq, hd.frame⟩

end Sys2Proof.Machine
end

section
/-! PROOF. The answers of the transports arriving late or early (R77, R78; log entries 3, 5 and 27), and
the bytes RDFRAME delivers (R232). A run that goes on once more has come in is compared with the run
that finds all of it there: each transaction either holds where `resume` takes it up again, or gives
both runs the same answer. -/

namespace Sys2Proof.Machine

open Sys2Proof.Claims

/-! ### RDFRAME -/

/-- Settles O38: the tail is the block of all 9,840 bytes, which has that length and, the buffer being
canonical, reads byte by byte. -/
theorem rdframeDeliversEveryByte : Obligations.RdframeDeliversEveryByte := by
  unfold Obligations.RdframeDeliversEveryByte
  intro k s hl hv hw
  refine ⟨emit (.frameResponse k Result.frame.word (s.fb.readBlock 0 9840)) (unlock (lock s)),
    s.fb.readBlock 0 9840, ?runs, rfl, Memory.readBlock_length .., fun a ha => ?byte⟩
  case runs => simp [exec, execRdframe, hl, hv]
  case byte => rw [Memory.readBlock_getD hw ha, Nat.zero_add]

/-! ### What comes in later -/

/-- Further transport answers, stream bytes and timer expiries. -/
structure Arrivals where
  writes : List WriteAnswer
  reads : List ReadAnswer
  datas : List DataAnswer
  bytes : List Byte
  expiries : Nat

/-- The state once they have come in. -/
abbrev State.fed (s : State) (a : Arrivals) : State :=
  feed a.writes a.reads a.datas a.bytes a.expiries s

/-- A run started at `s` and gone on with once more has come in ends as the run that finds all of it
there from the start. -/
def Resumes (run : State → State) (s : State) : Prop :=
  ∀ a : Arrivals, run (s.fed a) = resume ((run s).fed a)

/-- An operation other than WAITTRIG is in flight on channel `c`. -/
abbrev State.Granted (c : ChanSel) (s : State) : Prop :=
  s.chanSel = c ∧ s.opR ≠ Opcode.waittrig.byte

/-- Two runs that agree on every state with the opcode, payload and `asm_buf` of `s` resume alike. -/
theorem Resumes.congr {run run' : State → State} {s : State} (h : Resumes run' s)
    (he : ∀ u : State, u.opR = s.opR → u.payR = s.payR → u.asmBuf = s.asmBuf → run u = run' u) :
    Resumes run s := by
  intro a
  rw [he s rfl rfl rfl, he (s.fed a) rfl rfl rfl]
  exact h a

/-- A run after an update that what comes in later commutes with. -/
theorem Resumes.after {run g : State → State} {s : State} (h : Resumes run (g s))
    (hg : ∀ a, g (s.fed a) = (g s).fed a) : Resumes (fun t => run (g t)) s := by
  intro a
  dsimp only
  rw [hg]
  exact h a

/-- A run by a condition that what comes in later does not change. -/
theorem Resumes.ite {p : State → Bool} {run run' : State → State} {s : State}
    (hp : ∀ a, p (s.fed a) = p s) (h : p s = true → Resumes run s)
    (h' : p s = false → Resumes run' s) : Resumes (fun t => if p t then run t else run' t) s := by
  intro a
  dsimp only
  rw [hp]
  cases hs : p s with
  | true => exact h hs a
  | false => exact h' hs a

/-- An operation that has responded does not go on: with no channel granted, only WAITTRIG would
(R257). -/
theorem resume_of_ended {s : State} (hc : s.chanSel = .none) (ho : s.opR ≠ Opcode.waittrig.byte) :
    resume s = s := by
  rw [resume, hc]
  exact if_neg ho

theorem respond_resumes {r : Result} {s : State} (ho : s.opR ≠ Opcode.waittrig.byte) :
    Resumes (respond r) s := fun a =>
  (resume_of_ended (s := (respond r s).fed a) rfl ho).symm

/-- A response whose result is read off the state. -/
theorem respond_of_resumes {r : State → Result} {s : State} (ho : s.opR ≠ Opcode.waittrig.byte)
    (hr : ∀ a, r (s.fed a) = r s) : Resumes (fun t => respond (r t) t) s := by
  intro a
  dsimp only
  rw [hr]
  exact respond_resumes ho a

/-! ### One transaction -/

/-- The number of transport answers at hand; each transaction that is answered uses up one. -/
def answersLeft (s : State) : Nat :=
  s.cbWriteRsp.length + s.cbReadRsp.length + s.dbRsp.length

/-- The state after an answered transaction: the same operation on the same channel, with fewer
answers left. -/
structure Continues (s t : State) : Prop where
  chanSel : t.chanSel = s.chanSel
  opR : t.opR = s.opR
  fewer : answersLeft t < answersLeft s

theorem Continues.granted {c : ChanSel} {s t : State} (h : Continues s t) (hs : s.Granted c) :
    t.Granted c :=
  ⟨h.chanSel.trans hs.1, h.opR ▸ hs.2⟩

/-- A transaction is not answered yet, or it has its answer, whatever comes in later. -/
inductive Answered {α : Type} (prim : State → Reply α) (s : State) : Prop where
  | waits (now : prim s = .wait)
  | fails (t : State) (next : Continues s t) (now : prim s = .err t)
      (late : ∀ a, prim (s.fed a) = .err (t.fed a))
  | answers (x : α) (t : State) (next : Continues s t) (now : prim s = .ok x t)
      (late : ∀ a, prim (s.fed a) = .ok x (t.fed a))

theorem writeReg_answered (r : Reg) (p : List Byte) (s : State) : Answered (writeReg r p) s := by
  cases h : s.cbWriteRsp with
  | nil => exact .waits (writeReg_wait h)
  | cons b l =>
    have fed : ∀ a, (s.fed a).cbWriteRsp = b :: (l ++ a.writes) := fun a => by simp [feed, h]
    have next : ∀ tr, Continues s { s with cbWriteRsp := l, trace := tr } := fun tr =>
      ⟨rfl, rfl, by simp [answersLeft, h]⟩
    cases b with
    | err => exact .fails _ (next _) (writeReg_err h) fun a => writeReg_err (fed a)
    | ok => exact .answers _ _ (next _) (writeReg_ok h) fun a => writeReg_ok (fed a)

theorem readReg_answered (r : Reg) (s : State) : Answered (readReg r) s := by
  cases h : s.cbReadRsp with
  | nil => exact .waits (readReg_wait h)
  | cons b l =>
    have fed : ∀ a, (s.fed a).cbReadRsp = b :: (l ++ a.reads) := fun a => by simp [feed, h]
    have next : ∀ tr, Continues s { s with cbReadRsp := l, trace := tr } := fun tr =>
      ⟨rfl, rfl, by simp [answersLeft, h]⟩
    cases b with
    | err => exact .fails _ (next _) (readReg_err h) fun a => readReg_err (fed a)
    | ok b0 b1 => exact .answers _ _ (next _) (readReg_ok h) fun a => readReg_ok (fed a)

/-- A data read that has its answer and its bytes takes them from the front of the stream, where later
bytes do not come (R60, R261). -/
theorem dataRead_answered (n : Nat) (s : State) : Answered (dataRead n) s := by
  have fed : ∀ {b l}, s.dbRsp = b :: l → ∀ a, (s.fed a).dbRsp = b :: (l ++ a.datas) :=
    fun h a => by simp [feed, h]
  have room : ∀ {k}, k ≤ s.stream.length → ∀ a, k ≤ (s.fed a).stream.length :=
    fun h a => by simp [feed]; omega
  have next : ∀ {b l}, s.dbRsp = b :: l → ∀ st tr,
      Continues s { s with dbRsp := l, stream := st, trace := tr } := fun h st tr =>
    ⟨rfl, rfl, by simp [answersLeft, h]⟩
  rcases dataRead_cases n s with h | ⟨k, l, hd, hk, h⟩ | ⟨l, hd, hn, h⟩
  · exact .waits h
  · refine .fails _ (next hd _ _) h fun a => ?_
    rw [dataRead_err (fed hd a) (room hk a)]
    simp [feed, List.drop_append_of_le_length hk]
  · refine .answers _ _ (next hd _ _) h fun a => ?_
    rw [dataRead_ok (fed hd a) (room hn a)]
    simp [feed, List.take_append_of_le_length hn, List.drop_append_of_le_length hn]

/-- A run that enters state `u` for a transaction resumes when `resume` takes it up again there, and
what follows the answer resumes. -/
theorem Answered.resumes {α : Type} {prim : State → Reply α} {e : ErrorClass}
    {go : α → State → State} {run : State → State} {s u : State} (h : Answered prim u)
    (ho : u.opR ≠ Opcode.waittrig.byte) (now : run s = onReply (prim u) u e go)
    (late : ∀ a, run (s.fed a) = onReply (prim (u.fed a)) (u.fed a) e go)
    (held : ∀ a, resume (u.fed a) = run (s.fed a))
    (hgo : ∀ x t, Continues u t → Resumes (go x) t) : Resumes run s := by
  intro a
  cases h with
  | waits hw => rw [now, hw, onReply_wait, held]
  | fails t next hn hl =>
    rw [late, hl, now, hn, onReply_err, onReply_err]
    exact respond_resumes (next.opR ▸ ho) a
  | answers x t next hn hl =>
    rw [late, hl, now, hn, onReply_ok, onReply_ok]
    exact hgo x t next a

/-! ### The sequencer -/

/-- A transaction in state `c` of the sequencer, from which `run` goes on (R158). -/
theorem Answered.resumes_ctrl {α : Type} {prim : State → Reply α} {c : CcsState}
    {go : α → State → State} {run : State → State} {s : State} (hs : s.Granted .ctrl)
    (h : Answered prim { s with ccsState := c })
    (now : run s = onReply (prim { s with ccsState := c }) { s with ccsState := c }
      .ctrlBusError go)
    (late : ∀ a, run (s.fed a) = onReply (prim { s.fed a with ccsState := c })
      { s.fed a with ccsState := c } .ctrlBusError go)
    (place : ∀ v : State, ccsRun { v with ccsState := c } = run v)
    (hgo : ∀ x t, t.Granted .ctrl → answersLeft t < answersLeft s → Resumes (go x) t) :
    Resumes run s :=
  have held : ∀ a, resume { s.fed a with ccsState := c } = run (s.fed a) := fun a => by
    rw [resume_of_ctrl (by exact hs.1), place]
  h.resumes hs.2 now late held fun x t ht => hgo x t (ht.granted hs) ht.fewer

theorem finishStatus_resumes {s : State} (hs : s.Granted .ctrl) : Resumes finishStatus s := by
  have truth : ∀ f : Half → Bool, Resumes (fun u => respond (.truth (f u.statusR)) u) s := fun f =>
    respond_of_resumes hs.2 fun _ => rfl
  have status : Resumes (fun u => respond
      (.status (statusByte u.statusR) (statusClass (latchStatusCode u))) (latchStatusCode u)) s :=
    Resumes.after (run := fun u => respond (.status u.scR (statusClass u)) u) (g := latchStatusCode)
      (respond_of_resumes hs.2 fun _ => rfl) fun _ => rfl
  have valueStatus : Resumes (fun u => respond (.valueStatus u.rdValR (statusByte u.statusR)
      (statusClass (latchStatusCode u))) (latchStatusCode u)) s :=
    Resumes.after (run := fun u => respond (.valueStatus u.rdValR u.scR (statusClass u)) u)
      (g := latchStatusCode) (respond_of_resumes hs.2 fun _ => rfl) fun _ => rfl
  cases ho : Opcode.ofByte? s.opR with
  | none => exact status.congr fun u hu _ _ => by rw [finishStatus, hu, ho]
  | some o =>
    cases o with
    | gboot => exact (truth bootBit).congr fun u hu _ _ => by rw [finishStatus, hu, ho]
    | gifst => exact (truth (!busyBit ·)).congr fun u hu _ _ => by rw [finishStatus, hu, ho]
    | get p => exact valueStatus.congr fun u hu _ _ => by rw [finishStatus, hu, ho]
    | _ => exact status.congr fun u hu _ _ => by rw [finishStatus, hu, ho]

theorem runRdStatus_resumes {s : State} (hs : s.Granted .ctrl) : Resumes runRdStatus s :=
  (readReg_answered .status _).resumes_ctrl hs rfl (fun _ => rfl) (fun _ => rfl) fun v _ ht _ =>
    Resumes.after (g := fun t => { t with statusR := v }) (finishStatus_resumes ht) fun _ => rfl

theorem runRdData_resumes {s : State} (hs : s.Granted .ctrl) : Resumes runRdData s :=
  (readReg_answered .data0 _).resumes_ctrl hs rfl (fun _ => rfl) (fun _ => rfl) fun v _ ht _ =>
    Resumes.after (g := fun t => { t with rdValR := v }) (runRdStatus_resumes ht) fun _ => rfl

theorem afterPoll_resumes {s : State} (hs : s.Granted .ctrl) : Resumes afterPoll s := by
  have done : Resumes (respond .done) s := respond_resumes hs.2
  cases ho : Opcode.ofByte? s.opR with
  | none => exact done.congr fun u hu _ _ => by rw [afterPoll, hu, ho]
  | some o =>
    cases o with
    | set p => exact (runRdStatus_resumes hs).congr fun u hu _ _ => by rw [afterPoll, hu, ho]
    | get p => exact (runRdData_resumes hs).congr fun u hu _ _ => by rw [afterPoll, hu, ho]
    | _ => exact done.congr fun u hu _ _ => by rw [afterPoll, hu, ho]

/-- A poll wait that is not over is taken up again in `C_POLL_WAIT`; one that is over leaves the later
expiries to the next wait (R158, R297). -/
theorem pollWait_resumes {s : State} (hs : s.Granted .ctrl)
    (hp : ∀ u : State, u.Granted .ctrl → answersLeft u = answersLeft s → Resumes runPoll u) :
    Resumes (pollWait runPoll) s := by
  intro a
  rcases pollWait_cases runPoll s with ⟨-, h⟩ | ⟨m, hm, h⟩
  · rw [h]
    exact (resume_of_ctrl (s := { s.fed a with ccsState := .pollWait }) hs.1).symm
  · have hf : (s.fed a).timerRsp = m + a.expiries + 1 := by
      simp [feed, hm, Nat.add_right_comm]
    rw [h, pollWait_over hf]
    exact hp { s with
      ccsState := .pollWait, timerRsp := m, trace := .sleep s.cfg.pollInterval :: s.trace } hs rfl a

/-- The poll loop begins by entering `C_POLL`, so it can be taken up there (R158). -/
theorem runPoll_entered (s : State) : runPoll { s with ccsState := .poll } = runPoll s := by
  rw [runPoll_eq, runPoll_eq]

/-- What follows a STATUS read of the poll loop (R147, R148). -/
theorem pollNext_resumes {v : Half} {s : State} (hs : s.Granted .ctrl)
    (hp : ∀ u : State, u.Granted .ctrl → answersLeft u = answersLeft s → Resumes runPoll u) :
    Resumes (fun u => if busyBit v = false then afterPoll u
      else if pollBound u then raise .deviceUnresponsive u else pollWait runPoll u) s := by
  by_cases hb : busyBit v = false
  · exact (afterPoll_resumes hs).congr fun _ _ _ _ => if_pos hb
  · exact (Resumes.ite (p := pollBound) (fun _ => rfl) (fun _ => respond_resumes hs.2)
      fun _ => pollWait_resumes hs hp).congr fun _ _ _ _ => if_neg hb

theorem runPoll_resumes {s : State} (hs : s.Granted .ctrl) : Resumes runPoll s := by
  induction hn : answersLeft s using Nat.strong_induction_on generalizing s with
  | _ n ih =>
    refine (readReg_answered .status _).resumes_ctrl hs (runPoll_eq s) (fun a => runPoll_eq (s.fed a))
      runPoll_entered fun v t ht hl => ?_
    exact Resumes.after (g := fun t => { t with statusR := v, pollCnt := t.pollCnt + 1 })
      (pollNext_resumes ht fun u hu hl' => ih _ (hn ▸ hl'.trans_lt hl) hu rfl) fun _ => rfl

theorem runWrCmd_resumes {s : State} (hs : s.Granted .ctrl) : Resumes runWrCmd s :=
  (writeReg_answered .command (toBe16 s.cmdIdR) _).resumes_ctrl hs rfl (fun _ => rfl) (fun _ => rfl)
    fun _ _ ht _ =>
      Resumes.after (g := fun t => { t with pollCnt := 0 }) (runPoll_resumes ht) fun _ => rfl

theorem runWrLen_resumes {s : State} (hs : s.Granted .ctrl) : Resumes runWrLen s :=
  (writeReg_answered .length (toBe16 s.cmdLenR) _).resumes_ctrl hs rfl (fun _ => rfl) (fun _ => rfl)
    fun _ _ ht _ => runWrCmd_resumes ht

theorem runWrData_resumes {s : State} (hs : s.Granted .ctrl) : Resumes runWrData s :=
  (writeReg_answered .data0 s.payR _).resumes_ctrl hs rfl (fun _ => rfl) (fun _ => rfl)
    fun _ _ ht _ => runWrLen_resumes ht

theorem runWrReg_resumes {s : State} (hs : s.Granted .ctrl) : Resumes runWrReg s :=
  (writeReg_answered (latchedReg s.regR) s.payR _).resumes_ctrl hs rfl (fun _ => rfl) (fun _ => rfl)
    fun _ _ ht _ => respond_resumes ht.2

theorem runRdReg_resumes {s : State} (hs : s.Granted .ctrl) : Resumes runRdReg s :=
  (readReg_answered (latchedReg s.regR) _).resumes_ctrl hs rfl (fun _ => rfl) (fun _ => rfl)
    fun v _ ht _ =>
      Resumes.after (g := fun t => { t with rdValR := v }) (respond_resumes ht.2) fun _ => rfl

theorem runExec_resumes {s : State} (hs : s.Granted .ctrl) : Resumes runExec s := by
  by_cases hp : s.payR = []
  · exact (runWrLen_resumes hs).congr fun u _ hu _ => if_pos (hu.trans hp)
  · exact (runWrData_resumes hs).congr fun u _ hu _ => if_neg (hu ▸ hp)

/-! ### The assembler -/

theorem runPublish_resumes {s : State} (hs : s.Granted .data) : Resumes runPublish s := by
  refine Resumes.ite (p := State.fbLock) (fun _ => rfl) (fun hl a => ?_) fun _ => ?_
  · exact ((resume_of_data (s := { s.fed a with faState := .publish }) hs.1).trans (if_pos hl)).symm
  · exact Resumes.after (g := fun t =>
      { t with faState := .publish, fbLock := false, fb := t.asmBuf, fbValid := true })
      (respond_resumes hs.2) fun _ => rfl

/-- The state in which packet `i` has been validated (R200, R225). -/
def validating (i : Nat) (s : State) : State :=
  latchValidation (s.asmBuf.packet i) { s with faState := .validate, pktIdx := BitVec.ofNat 6 i }

theorem validating_fed (i : Nat) (s : State) (a : Arrivals) :
    validating i (s.fed a) = (validating i s).fed a := by
  simp only [validating, latchValidation_eq]
  rfl

theorem validating_granted {i : Nat} {c : ChanSel} {s : State} (hs : s.Granted c) :
    (validating i s).Granted c := by
  rw [validating, latchValidation_eq]
  exact hs

/-- The validation makes no transaction; only the publication at its end can hold (R225, R72). -/
theorem validateFrom_resumes {n i : Nat} {s : State} (hs : s.Granted .data) :
    Resumes (validateFrom n i) s := by
  induction n generalizing i s with
  | zero => exact runPublish_resumes hs
  | succ n ih =>
    have hv := validating_granted (i := i) hs
    cases h : validate (s.asmBuf.packet i) with
    | accept =>
      refine Resumes.congr (Resumes.after (ih (i := i + 1) hv) (validating_fed i s)) fun u _ _ hu => ?_
      rw [validateFrom, hu, h, validating, hu]
    | discard r =>
      refine Resumes.congr (Resumes.after (run := fun t => respond (.noUpdate r i) (logDiscard r i t))
        (Resumes.after (g := logDiscard r i) (respond_resumes hv.2) fun _ => rfl)
        (validating_fed i s)) fun u _ _ hu => ?_
      rw [validateFrom, hu, h, validating, hu]

theorem runValidate_resumes {s : State} (hs : s.Granted .data) : Resumes runValidate s :=
  validateFrom_resumes hs

theorem runBulk_resumes {s : State} (hs : s.Granted .data) : Resumes runBulk s :=
  (dataRead_answered bulkBytes { s with faState := .bulk }).resumes hs.2 rfl (fun _ => rfl)
    (fun a => resume_of_data (s := { s.fed a with faState := .bulk }) hs.1) fun b _ ht =>
      Resumes.after (g := fun t => { t with asmBuf := t.asmBuf.writeBlock packetBytes b })
        (runValidate_resumes (ht.granted hs)) fun _ => rfl

/-- The synchronisation loop begins by entering `F_SYNC`, so it can be taken up there (R230). -/
theorem runSync_entered (s : State) : runSync { s with faState := .sync } = runSync s := by
  rw [runSync_eq, runSync_eq]; rfl

/-- What follows an answered read of the synchronisation step (R221, R222). -/
theorem syncNext_resumes {b : List Byte} {s : State} (hs : s.Granted .data)
    (hr : ∀ u : State, u.Granted .data → answersLeft u = answersLeft s → Resumes runSync u) :
    Resumes (fun t => if lineId b = 0#16 then
        runBulk { t with syncCnt := t.syncCnt + 1, asmBuf := t.asmBuf.writeBlock 0 b }
      else runSync { t with syncCnt := t.syncCnt + 1 }) s := by
  by_cases hb : lineId b = 0#16
  · exact Resumes.congr (Resumes.after (g := fun t =>
      { t with syncCnt := t.syncCnt + 1, asmBuf := t.asmBuf.writeBlock 0 b })
      (runBulk_resumes hs) fun _ => rfl) fun _ _ _ _ => if_pos hb
  · exact Resumes.congr (Resumes.after (g := fun t => { t with syncCnt := t.syncCnt + 1 })
      (hr _ hs rfl) fun _ => rfl) fun _ _ _ _ => if_neg hb

theorem runSync_resumes {s : State} (hs : s.Granted .data) : Resumes runSync s := by
  induction hn : answersLeft s using Nat.strong_induction_on generalizing s with
  | _ n ih =>
    intro a
    by_cases hb : syncBound s = true
    · rw [runSync_eq s, runSync_eq (s.fed a), if_pos hb, if_pos (by exact hb)]
      exact respond_resumes hs.2 a
    have now := runSync_eq s
    have late := runSync_eq (s.fed a)
    rw [if_neg hb] at now
    rw [if_neg (by exact hb)] at late
    cases dataRead_answered packetBytes { s with faState := .sync } with
    | waits hw =>
      rw [hw] at now
      rw [now, ← runSync_entered]
      exact (resume_of_data (s := { s.fed a with faState := .sync }) hs.1).symm
    | fails t next hnow hlate =>
      rw [hnow] at now
      rw [show dataRead packetBytes { s.fed a with faState := .sync } = _ from hlate a] at late
      rw [now, late]
      exact ih _ (hn ▸ next.fewer) (s := { t with syncCnt := t.syncCnt + 1 }) (next.granted hs) rfl a
    | answers b t next hnow hlate =>
      rw [hnow] at now
      rw [show dataRead packetBytes { s.fed a with faState := .sync } = _ from hlate a] at late
      rw [now, late]
      exact syncNext_resumes (next.granted hs)
        (fun u hu hl => ih _ (hn ▸ hl.trans_lt next.fewer) hu rfl) a

/-! ### The operations -/

theorem accept_fed (o : Opcode) (s : State) (a : Arrivals) :
    accept o (s.fed a) = (accept o s).fed a := rfl

/-- What an operation with a channel latches does not depend on what comes in later (R24). -/
theorem opLatch_fed {i : Instr} (h : chanOf i.opcode ≠ .none) (s : State) (a : Arrivals) :
    opLatch i (s.fed a) = (opLatch i s).fed a := by
  unfold opLatch
  cases ho : i.opcode with
  | pval => simp [ho, chanOf] at h
  | _ => rfl

theorem opLatch_granted {i : Instr} (h : chanOf i.opcode ≠ .none) {c : ChanSel} {s : State}
    (hs : s.Granted c) : (opLatch i s).Granted c := by
  unfold opLatch
  cases ho : i.opcode with
  | pval => simp [ho, chanOf] at h
  | _ => exact hs

/-- An operation with a channel, from its first state on. -/
theorem opStart_resumes {i : Instr} (h : chanOf i.opcode ≠ .none) {s : State}
    (hs : s.Granted (chanOf i.opcode)) : Resumes (opStart i) s := by
  unfold opStart
  generalize i.opcode = o at h hs ⊢
  cases o with
  | wrreg => exact runWrReg_resumes hs
  | rdreg => exact runRdReg_resumes hs
  | execute => exact runExec_resumes hs
  | set p => exact runWrData_resumes hs
  | get p => exact runWrLen_resumes hs
  | gboot => exact runRdStatus_resumes hs
  | gifst => exact runRdStatus_resumes hs
  | gstat => exact runRdStatus_resumes hs
  | capture => exact runSync_resumes hs
  | _ => simp [chanOf] at h

/-- Acceptance grants the operation's channel, and WAITTRIG, whose opcode no other operation has, is
granted none (R96, R251). -/
theorem accept_granted {o : Opcode} (h : chanOf o ≠ .none) (s : State) :
    (accept o s).Granted (chanOf o) := by
  refine ⟨rfl, fun hb => h ?_⟩
  have ho := congrArg Opcode.ofByte? hb
  rw [accept_opR, ofByte?_byte, ofByte?_byte, Option.some.injEq] at ho
  rw [ho, chanOf]

/-- Settles O48: acceptance and the operand latches do not depend on what comes in later, and the run from
the first state on resumes, transaction by transaction. -/
theorem arrivalTimeOfAnswersIsIrrelevant : Obligations.ArrivalTimeOfAnswersIsIrrelevant := by
  unfold Obligations.ArrivalTimeOfAnswersIsIrrelevant
  intro i s t ws rs ds bs n hb hc ht
  have hi : i.opcode ≠ .rdframe := fun hi => hc (by rw [hi, chanOf])
  rw [exec_eq_dispatch hi, dispatch_idle hb] at ht
  cases ht
  rw [exec_eq_dispatch hi, dispatch_idle (by exact hb)]
  have hr := opStart_resumes hc (opLatch_granted hc (accept_granted hc s)) ⟨ws, rs, ds, bs, n⟩
  rw [← opLatch_fed hc, ← accept_fed] at hr
  exact congrArg Host.Outcome.next hr

end Sys2Proof.Machine
end

section
/-! PROOF. The decoder read both ways (R90 to R101): what each of its parts answers, said once; an
operation decodes from its encoding, and from nothing else. -/

namespace Sys2Proof

/-! ### The parts of the decoder -/

theorem decode_of_opcode {c : Cfg} {r : Request} {o : Opcode} (hx : portExists c r.port = true)
    (ho : Opcode.ofByte? (fieldOp r.word) = some o) :
    decode c r = if portAccepts o r.port = false then .error .wrongPort
      else if unusedZero o.format r.word = false then .error .unusedField
      else decodeOperands c r o := by
  simp [decode, hx, ho]

/-- A request that decodes has passed every test of the decoder. -/
theorem decode_eq_ok {c : Cfg} {r : Request} {i : Instr} (h : decode c r = .ok i) :
    portExists c r.port = true ∧ ∃ o, Opcode.ofByte? (fieldOp r.word) = some o
      ∧ portAccepts o r.port = true ∧ unusedZero o.format r.word = true
      ∧ decodeOperands c r o = .ok i := by
  cases hx : portExists c r.port with
  | false => simp [decode, hx] at h
  | true =>
    cases ho : Opcode.ofByte? (fieldOp r.word) with
    | none => simp [decode, hx, ho] at h
    | some o =>
      rw [decode_of_opcode hx ho] at h
      split_ifs at h with hp hz
      exact ⟨rfl, o, rfl, by simpa using hp, by simpa using hz, h⟩

theorem decodeNoTail_eq_ok_iff {r : Request} {i j : Instr} :
    decodeNoTail r i = .ok j ↔ r.tail = [] ∧ i = j := by
  simp only [decodeNoTail]
  split_ifs with h
  · simp [h]
  · simp [not_not.1 h]

theorem decodePayload_eq_ok_iff {c : Cfg} {r : Request} {build : List Byte → Instr} {i : Instr} :
    decodePayload c r build = .ok i ↔ r.tail.length ≤ c.maxPayloadBytes
      ∧ r.tail.length = (fieldPlen r.word).toNat ∧ build r.tail = i := by
  unfold decodePayload
  split_ifs with hm hl
  · exact iff_of_false nofun fun ⟨h, hl, _⟩ => by omega
  · exact iff_of_false nofun fun ⟨_, h, _⟩ => hl h
  · simp [not_not.1 hl, Nat.not_lt.1 hm]

theorem decodeReg_eq_ok_iff {r : Request} {build : Reg → Except DecodeError Instr} {i : Instr} :
    decodeReg r build = .ok i ↔ ∃ reg, reg.selector = fieldA r.word ∧ build reg = .ok i := by
  unfold decodeReg
  cases hs : Reg.ofSelector? (fieldA r.word) with
  | none =>
    have no : ∀ reg : Reg, reg.selector ≠ fieldA r.word := fun reg h => by
      simp [← h] at hs
    simp [no]
  | some reg =>
    have ha := selector_of_ofSelector? hs
    refine ⟨fun h => ⟨reg, ha, h⟩, fun ⟨q, hq, h⟩ => ?_⟩
    rw [← hq, ofSelector?_selector, Option.some.injEq] at hs
    exact hs ▸ h

/-- The fields a format leaves unused, field by field (R91). -/
theorem unusedZero_iff {f : Format} {w : Word64} :
    unusedZero f w = true ↔ fieldZ0 w = 0#8 ∧ (f = .r ∨ f = .w ∨ fieldA w = 0#8)
      ∧ (f = .w ∨ f = .x ∨ f = .p ∨ fieldPlen w = 0#8) ∧ (f = .v ∨ f = .x ∨ fieldV0 w = 0#16)
      ∧ (f = .x ∨ fieldV1 w = 0#16) := by
  simp [unusedZero, or_assoc, and_assoc]

/-! ### An operation and its encoding -/

/-- An operation has no operand where its format has no field (R91). -/
theorem Instr.unused_fields (i : Instr) :
    (i.opcode.format = .r ∨ i.opcode.format = .w ∨ i.selectorField = 0#8)
      ∧ (i.opcode.format = .w ∨ i.opcode.format = .x ∨ i.opcode.format = .p ∨ i.tail = [])
      ∧ (i.opcode.format = .v ∨ i.opcode.format = .x ∨ i.v0Field = 0#16)
      ∧ (i.opcode.format = .x ∨ i.v1Field = 0#16) := by
  cases i <;> simp [opcode, Opcode.format, selectorField, tail, v0Field, v1Field]

theorem unusedZero_encode (i : Instr) : unusedZero i.opcode.format (encode i).word = true := by
  obtain ⟨-, ha, hl, hz, h0, h1⟩ := Laws.WordFields.of_layout i
  obtain ⟨ua, ul, u0, u1⟩ := i.unused_fields
  rw [unusedZero_iff, ha, hl, hz, h0, h1]
  exact ⟨rfl, ua, ul.imp_right (.imp_right (.imp_right fun h => by rw [h]; rfl)), u0, u1⟩

theorem portAccepts_encode (i : Instr) : portAccepts i.opcode (encode i).port = true := by
  cases i <;> rfl

theorem portExists_encode {c : Cfg} {i : Instr} (hw : i.wf c = true) :
    portExists c (encode i).port = true := by
  cases i with
  | rdframe k => exact hw
  | _ => rfl

/-- The length of a tail of at most 255 bytes is in the word (R90, R95). -/
theorem fieldPlen_encode {i : Instr} (h : i.tail.length ≤ 255) :
    (encode i).tail.length = (fieldPlen (encode i).word).toNat := by
  obtain ⟨-, -, hl, -⟩ := Laws.WordFields.of_layout i
  rw [hl, BitVec.toNat_ofNat, Nat.mod_eq_of_lt (by omega), encode]

theorem decodePayload_encode {c : Cfg} {i : Instr} {build : List Byte → Instr}
    (hc : c.maxPayloadBytes ≤ 255) (hl : i.tail.length ≤ c.maxPayloadBytes)
    (hb : build i.tail = i) : decodePayload c (encode i) build = .ok i :=
  decodePayload_eq_ok_iff.2 ⟨hl, fieldPlen_encode (hl.trans hc), hb⟩

/-- The operands of an encoding are the operation's (R93, R95). -/
theorem decodeOperands_encode {c : Cfg} {i : Instr} (hc : c.maxPayloadBytes ≤ 255)
    (hw : i.wf c = true) : decodeOperands c (encode i) i.opcode = .ok i := by
  obtain ⟨-, ha, -, -, h0, h1⟩ := Laws.WordFields.of_layout i
  cases i with
  | wrreg reg payload =>
    exact decodeReg_eq_ok_iff.2
      ⟨reg, ha.symm, decodePayload_encode hc (of_decide_eq_true hw) rfl⟩
  | rdreg reg => exact decodeReg_eq_ok_iff.2 ⟨reg, ha.symm, rfl⟩
  | execute id len payload =>
    exact decodePayload_encode hc (of_decide_eq_true hw) (by rw [h0, h1]; rfl)
  | pval packet =>
    have hl : packet.length = packetBytes := of_decide_eq_true hw
    have hp := fieldPlen_encode (i := .pval packet) (hl.trans_le (by decide))
    have ht : (encode (.pval packet)).tail = packet := rfl
    simp [Instr.opcode, decodeOperands, ← hp, ht, hl]
  | setPhase v | setGpio v | setVsrc v | setVconst v | setTlm v | setAgc v =>
    exact decodeNoTail_eq_ok_iff.2 ⟨rfl, by rw [h0]; rfl⟩
  | _ => rfl

/-! ### A request that decodes -/

/-- The fields a format uses are the operation's operands (R91). -/
def SameOperands (r : Request) (i : Instr) : Format → Prop
  | .n => True
  | .r => i.selectorField = fieldA r.word
  | .w => i.selectorField = fieldA r.word ∧ i.tail.length = (fieldPlen r.word).toNat
  | .v => i.v0Field = fieldV0 r.word
  | .x => i.tail.length = (fieldPlen r.word).toNat ∧ i.v0Field = fieldV0 r.word
    ∧ i.v1Field = fieldV1 r.word
  | .p => i.tail.length = (fieldPlen r.word).toNat

/-- The used fields being the operation's operands and the unused ones zero, every field of the
request is the operation's. -/
theorem fields_eq_of_sameOperands {i : Instr} {r : Request}
    (hz : unusedZero i.opcode.format r.word = true) (h : SameOperands r i i.opcode.format) :
    i.selectorField = fieldA r.word ∧ i.tail.length = (fieldPlen r.word).toNat
      ∧ i.v0Field = fieldV0 r.word ∧ i.v1Field = fieldV1 r.word := by
  obtain ⟨-, za, zl, z0, z1⟩ := unusedZero_iff.1 hz
  obtain ⟨ua, ul, u0, u1⟩ := i.unused_fields
  cases hf : i.opcode.format <;> simp_all [SameOperands]

/-- A request is an operation's encoding when it has its port, opcode, operands and tail and zeros
elsewhere (R90, R91). -/
theorem encode_eq {i : Instr} {r : Request} (hp : i.port = r.port)
    (ho : i.opcode.byte = fieldOp r.word) (ht : i.tail = r.tail)
    (hz : unusedZero i.opcode.format r.word = true) (h : SameOperands r i i.opcode.format) :
    encode i = r := by
  obtain ⟨ha, hl, h0, h1⟩ := fields_eq_of_sameOperands hz h
  rw [encode, hl, hp, ho, ha, h0, h1, ht, BitVec.ofNat_toNat, BitVec.setWidth_eq,
    mkWord_fields _ (unusedZero_iff.1 hz).1]

/-- Every operation but RDFRAME is accepted on the OP port only (R98 f). -/
theorem port_of_portAccepts {o : Opcode} {p : Port} (h : portAccepts o p = true)
    (ho : o ≠ .rdframe) : p = .op := by
  cases p with
  | op => rfl
  | frame k => exact absurd (by simpa [portAccepts] using h) ho

/-- The operation read from a request that passes the tests before its operands has that request as
its encoding. -/
theorem encode_of_decodeOperands {c : Cfg} {r : Request} {o : Opcode} {i : Instr}
    (hx : portExists c r.port = true) (ho : o.byte = fieldOp r.word)
    (hp : portAccepts o r.port = true) (hz : unusedZero o.format r.word = true)
    (h : decodeOperands c r o = .ok i) : encode i = r ∧ i.wf c = true := by
  have op : o ≠ .rdframe → .op = r.port := fun hr => (port_of_portAccepts hp hr).symm
  cases o with
  | wrreg =>
    obtain ⟨reg, hr, h⟩ := decodeReg_eq_ok_iff.1 h
    obtain ⟨hm, hl, rfl⟩ := decodePayload_eq_ok_iff.1 h
    exact ⟨encode_eq (op nofun) ho rfl hz ⟨hr, hl⟩, decide_eq_true hm⟩
  | rdreg =>
    obtain ⟨reg, hr, h⟩ := decodeReg_eq_ok_iff.1 h
    obtain ⟨ht, rfl⟩ := decodeNoTail_eq_ok_iff.1 h
    exact ⟨encode_eq (op nofun) ho ht.symm hz hr, rfl⟩
  | execute =>
    obtain ⟨hm, hl, rfl⟩ := decodePayload_eq_ok_iff.1 h
    exact ⟨encode_eq (op nofun) ho rfl hz ⟨hl, rfl, rfl⟩, decide_eq_true hm⟩
  | gboot | gifst | gstat | armtrig | waittrig | capture =>
    obtain ⟨ht, rfl⟩ := decodeNoTail_eq_ok_iff.1 h
    exact ⟨encode_eq (op nofun) ho ht.symm hz trivial, rfl⟩
  | get p =>
    obtain ⟨ht, rfl⟩ := decodeNoTail_eq_ok_iff.1 h
    cases p <;> exact ⟨encode_eq (op nofun) ho ht.symm hz trivial, rfl⟩
  | set p =>
    obtain ⟨ht, rfl⟩ := decodeNoTail_eq_ok_iff.1 h
    cases p <;> exact ⟨encode_eq (op nofun) ho ht.symm hz rfl, rfl⟩
  | rdframe =>
    obtain ⟨ht, rfl⟩ := decodeNoTail_eq_ok_iff.1 h
    cases hr : r.port with
    | op => simp [hr, portAccepts] at hp
    | frame k =>
      rw [hr] at hx
      exact ⟨encode_eq hr.symm ho ht.symm hz trivial, hx⟩
  | pval =>
    simp only [decodeOperands] at h
    split_ifs at h with hl ht
    cases h
    rw [not_not] at hl ht
    exact ⟨encode_eq (op nofun) ho rfl hz (ht.trans hl.symm), decide_eq_true ht⟩

/-! ### The two round trips -/

/-- Settles O1: the encoding passes the decoder's tests one by one, and its operands are the
operation's. -/
theorem decodeEncodeRoundTrip : Obligations.DecodeEncodeRoundTrip := by
  unfold Obligations.DecodeEncodeRoundTrip
  intro c i hc hw
  have ho : Opcode.ofByte? (fieldOp (encode i).word) = some i.opcode := by
    rw [(Laws.WordFields.of_layout i).1, ofByte?_byte]
  rw [decode_of_opcode (portExists_encode hw) ho, portAccepts_encode, unusedZero_encode]
  exact decodeOperands_encode hc hw

/-- Settles O2: what decodes has passed the tests, so that its operands and zeros are the whole
word. -/
theorem decodedRequestIsItsEncoding : Obligations.DecodedRequestIsItsEncoding := by
  unfold Obligations.DecodedRequestIsItsEncoding
  intro c r i h
  obtain ⟨hx, o, ho, hp, hz, h⟩ := decode_eq_ok h
  exact encode_of_decodeOperands hx (byte_of_ofByte? ho) hp hz h

end Sys2Proof
end

section
/-! PROOF. The illegal requests of R98: its clauses by the format of the opcode, the decoder's errors,
and the step that takes such a request. -/

namespace Sys2Proof

open Sys2Proof.Claims

/-! ### The illegal requests of R98 -/

theorem Opcode.byte_mem_ops (o : Opcode) : o.byte ∈ ops := by
  cases o with
  | get p => cases p <;> decide
  | set p => cases p <;> decide
  | _ => decide

/-- Every opcode byte of R96 names a row. -/
theorem Opcode.exists_byte_of_mem_ops {b : Byte} (h : b ∈ ops) : ∃ o : Opcode, o.byte = b := by
  have named : ∀ b ∈ ops, ∃ o ∈ Opcode.all, o.byte = b := by decide
  obtain ⟨o, -, ho⟩ := named b h
  exact ⟨o, ho⟩

/-- The formats with operand fields are the opcodes that R98 lists by value (R96). -/
theorem Opcode.byte_iff_format (o : Opcode) :
    (o.byte = 0x01#8 ↔ o.format = .w) ∧ (o.byte = 0x02#8 ↔ o.format = .r)
      ∧ (o.byte = 0x03#8 ↔ o.format = .x) ∧ (o.byte = 0x42#8 ↔ o.format = .p)
      ∧ (o.byte ∈ opsV ↔ o.format = .v) ∧ (o.byte = 0x41#8 ↔ o = .rdframe) := by
  cases o with
  | get p => cases p <;> decide
  | set p => cases p <;> decide
  | _ => decide

/-- The clauses of R98 about operands, (c) to (e), by format. -/
def BadOperands (c : Cfg) (w : Word64) : Format → Prop
  | .n => False
  | .r => 4 < (fieldA w).toNat
  | .w => 4 < (fieldA w).toNat ∨ c.maxPayloadBytes < (fieldPlen w).toNat
  | .v => False
  | .x => c.maxPayloadBytes < (fieldPlen w).toNat
  | .p => (fieldPlen w).toNat ≠ packetBytes

/-- Clauses (c) to (e) of R98 as it lists them. -/
theorem badOperands_iff {c : Cfg} {w : Word64} {f : Format} :
    BadOperands c w f ↔ ((f = .r ∨ f = .w) ∧ 4 < (fieldA w).toNat)
      ∨ ((f = .w ∨ f = .x) ∧ c.maxPayloadBytes < (fieldPlen w).toNat)
      ∨ (f = .p ∧ (fieldPlen w).toNat ≠ packetBytes) := by
  cases f <;> simp [BadOperands]

/-- Clause (b) of R98 by format. -/
theorem unusedZero_eq_false_iff {f : Format} {w : Word64} :
    unusedZero f w = false ↔ fieldZ0 w ≠ 0#8 ∨ (fieldA w ≠ 0#8 ∧ f ≠ .r ∧ f ≠ .w)
      ∨ (fieldPlen w ≠ 0#8 ∧ f ≠ .w ∧ f ≠ .x ∧ f ≠ .p)
      ∨ (fieldV0 w ≠ 0#16 ∧ f ≠ .v ∧ f ≠ .x) ∨ (fieldV1 w ≠ 0#16 ∧ f ≠ .x) := by
  rw [← Bool.not_eq_true, unusedZero_iff]
  tauto

/-- Clause (f) of R98. -/
theorem portAccepts_eq_false_iff {o : Opcode} {p : Port} :
    portAccepts o p = false ↔
      ((∃ k, p = .frame k) ∧ o ≠ .rdframe) ∨ (p = .op ∧ o = .rdframe) := by
  cases p <;> simp [portAccepts]

/-- A request with no opcode of R96 is illegal by clause (a). -/
theorem illegal_of_unknown {c : Cfg} {p : Port} {w : Word64}
    (h : Opcode.ofByte? (fieldOp w) = none) : Illegal c p w := by
  refine .inl fun hm => ?_
  obtain ⟨o, ho⟩ := Opcode.exists_byte_of_mem_ops hm
  rw [← ho, ofByte?_byte] at h
  cases h

/-- With a known opcode the illegal requests are those with the wrong port (f), an unused field that
is not zero (b), or an operand out of range (c to e). -/
theorem illegal_iff_of_opcode {c : Cfg} {p : Port} {w : Word64} {o : Opcode}
    (ho : o.byte = fieldOp w) :
    Illegal c p w ↔ portAccepts o p = false ∨ unusedZero o.format w = false
      ∨ BadOperands c w o.format := by
  obtain ⟨hw, hr, hx, hp, hv, hf⟩ := o.byte_iff_format
  rw [portAccepts_eq_false_iff, unusedZero_eq_false_iff, badOperands_iff, Illegal, ← ho]
  simp only [ne_eq, hw, hr, hx, hp, hv, hf, o.byte_mem_ops, not_true_eq_false, false_or]
  -- The same clauses, the port's last on one side and first on the other.
  refine Iff.trans ?_ or_comm
  simp only [or_assoc]

/-! ### The decoder's errors -/

/-- Values 5 to 255 select no register (R93). -/
theorem ofSelector?_eq_none_iff {a : Byte} : Reg.ofSelector? a = none ↔ 4 < a.toNat := by
  simp only [Reg.ofSelector?, List.find?_eq_none, List.forall_mem_cons, Reg.selector, beq_iff_eq,
    List.not_mem_nil, false_implies, implies_true, and_true]
  bv_omega

theorem decodeReg_error_iff {r : Request} {build : Reg → Except DecodeError Instr} {P : Prop}
    (hb : ∀ reg, (∃ e, build reg = .error e) ↔ P) :
    (∃ e, decodeReg r build = .error e) ↔ 4 < (fieldA r.word).toNat ∨ P := by
  rw [← ofSelector?_eq_none_iff, decodeReg]
  cases Reg.ofSelector? (fieldA r.word) with
  | none => simp
  | some reg => simpa using hb reg

theorem decodePayload_error_iff {c : Cfg} {r : Request} {build : List Byte → Instr}
    (hl : r.tail.length = (fieldPlen r.word).toNat) :
    (∃ e, decodePayload c r build = .error e) ↔ c.maxPayloadBytes < (fieldPlen r.word).toNat := by
  rw [decodePayload, if_neg (not_not.2 hl)]
  split_ifs with hm <;> simp [hm]

theorem decodeNoTail_error_iff {r : Request} {i : Instr} (hl : r.tail.length = 0) :
    (∃ e, decodeNoTail r i = .error e) ↔ False := by
  rw [decodeNoTail, if_neg (not_not.2 (List.length_eq_zero_iff.1 hl))]
  simp

/-- A tail of the right length is `PLEN` bytes in the formats that have one, and empty in the others
(R101). -/
theorem tailLength_of_accepted {p : Port} {w : Word64} {o : Opcode}
    (ho : Opcode.ofByte? (fieldOp w) = some o) (hp : portAccepts o p = true) :
    tailLength p w
      = if o.format = .w ∨ o.format = .x ∨ o.format = .p then (fieldPlen w).toNat else 0 := by
  cases p with
  | op => simp [tailLength, ho]
  | frame k =>
    have hr : o = .rdframe := by simpa [portAccepts] using hp
    simp [tailLength, hr, Opcode.format]

/-- With the whole tail there, only the clauses (c) to (e) of R98 keep the operands from being
read. -/
theorem decodeOperands_error_iff {c : Cfg} {p : Port} {w : Word64} {tail : List Byte} {o : Opcode}
    (ho : Opcode.ofByte? (fieldOp w) = some o) (hp : portAccepts o p = true)
    (ht : tail.length = tailLength p w) :
    (∃ e, decodeOperands c ⟨p, w, tail⟩ o = .error e) ↔ BadOperands c w o.format := by
  rw [tailLength_of_accepted ho hp] at ht
  cases o with
  | wrreg => exact decodeReg_error_iff fun reg => decodePayload_error_iff ht
  | rdreg =>
    exact (decodeReg_error_iff fun reg => decodeNoTail_error_iff ht).trans (iff_of_eq (or_false _))
  | execute => exact decodePayload_error_iff ht
  | pval =>
    change tail.length = (fieldPlen w).toNat at ht
    simp only [decodeOperands, ht, BadOperands, Opcode.format]
    split_ifs with hl <;> simp [hl]
  | _ => exact decodeNoTail_error_iff ht

/-- Settles O4: an unknown opcode is clause (a), and with a known one the decoder's three tests are
the other clauses. -/
theorem decoderRejectsExactlyIllegalRequests :
    Obligations.DecoderRejectsExactlyIllegalRequests := by
  unfold Obligations.DecoderRejectsExactlyIllegalRequests
  intro c p w tail hx ht
  cases ho : Opcode.ofByte? (fieldOp w) with
  | none =>
    exact iff_of_true ⟨.unknownOpcode, by simp [decode, hx, ho]⟩ (illegal_of_unknown ho)
  | some o =>
    rw [illegal_iff_of_opcode (byte_of_ofByte? ho), decode_of_opcode hx ho]
    split_ifs with hp hz
    · exact iff_of_true ⟨_, rfl⟩ (.inl hp)
    · exact iff_of_true ⟨_, rfl⟩ (.inr (.inl hz))
    · simpa [hp, hz] using decodeOperands_error_iff ho (by simpa using hp) ht

namespace Machine

/-- When it is the OP agent's move, it moves with its turn taken (log entry 7). -/
theorem nextMove_of_opTurnNext {s : State} {l : List Turn} (h : OpTurnNext s l) :
    nextMove s = opTurn { s with sched := l } := by
  rcases h with h | ⟨h, rfl⟩
  · simp only [nextMove, h]
  · rw [show { s with sched := [] } = s by rw [← h]]
    simp only [nextMove, h]

/-- The step of an idle OP agent that takes a whole request the decoder rejects (R98, R252). -/
theorem step_of_rejected_op {s : State} {l : List Turn} {w : Word64} {ws : List Word64}
    {e : DecodeError} (hb : s.opBusy = false) (ht : OpTurnNext s l) (hw : s.opWords = w :: ws)
    (hl : tailLength .op w ≤ s.opPay.length)
    (he : decode s.cfg ⟨.op, w, s.opPay.take (tailLength .op w)⟩ = .error e) :
    step s = .next (refuseOp { s with
      sched := l, opWords := ws, opPay := s.opPay.drop (tailLength .op w) }) := by
  refine step_of_stay ?_
  rw [nextMove_of_opTurnNext ht]
  simp [opTurn, hb, hw, Nat.not_lt.2 hl, he]

/-- The step of a FRAME port that carries a request the decoder rejects (R98, R253). -/
theorem step_of_rejected_frame {s : State} {l : List Turn} {k : Nat} {w : Word64}
    {e : DecodeError} (ht : s.sched = .frame k w :: l) (hk : k < s.cfg.nReaders)
    (he : decode s.cfg ⟨.frame k, w, []⟩ = .error e) :
    step s = .next (refuseFrame k { s with sched := l }) := by
  refine step_of_stay ?_
  simp [nextMove, ht, frameTurn, Nat.not_le.2 hk, he]

/-- Settles O5: the decoder rejects an illegal request (O4), and the step that takes it adds the
response and no more. -/
theorem illegalRequestOnlyGetsItsResponse : Obligations.IllegalRequestOnlyGetsItsResponse := by
  unfold Obligations.IllegalRequestOnlyGetsItsResponse
  have hword : (Result.error .illegalOp).word = 0x0000000000000007#64 := by decide
  refine ⟨fun s l w ws hb ht hw hl hi => ?onOp, fun s l k w ht hk hi => ?onFrame⟩
  case onOp =>
    obtain ⟨e, he⟩ := (decoderRejectsExactlyIllegalRequests s.cfg .op w
      (s.opPay.take (tailLength .op w)) rfl (List.length_take_of_le hl)).2 hi
    rw [step_of_rejected_op hb ht hw hl he, refuseOp, hword]
    rfl
  case onFrame =>
    obtain ⟨e, he⟩ := (decoderRejectsExactlyIllegalRequests s.cfg (.frame k) w []
      (decide_eq_true hk) rfl).2 hi
    rw [step_of_rejected_frame ht hk he, refuseFrame, hword]
    rfl

end Machine

end Sys2Proof
end

section
/-! PROOF. The fields of a response word (R92), the words of every result (R100, R270), and the
worked words of R104. -/

namespace Sys2Proof.Machine

open Sys2Proof.Claims

/-- A field of a word is what its bits say. -/
theorem extractLsb'_eq_of_getLsbD {n : Nat} {w : Word64} {k : Nat} {b : BitVec n}
    (h : ∀ i < n, w.getLsbD (k + i) = b.getLsbD i) : w.extractLsb' k n = b := by
  refine BitVec.eq_of_getLsbD_eq fun i hi => ?_
  rw [BitVec.getLsbD_extractLsb', h i hi, decide_eq_true hi, Bool.true_and]

/-- The five fields of a response word are what it was made of (R92). -/
theorem responseFields_mkResponse (rc sc : Byte) (scc : BitVec 2) (val : Half) (aux : Byte) :
    responseFields (mkResponse rc sc scc val aux) = (rc, sc, scc, val, aux) := by
  have hsc : (mkResponse rc sc scc val aux).extractLsb' 8 8 = sc :=
    extractLsb'_eq_of_getLsbD fun i hi => by
      rw [mkResponse_getLsbD, if_neg (by omega), if_pos (by omega), Nat.add_sub_cancel_left]
  have hscc : (mkResponse rc sc scc val aux).extractLsb' 16 2 = scc :=
    extractLsb'_eq_of_getLsbD fun i hi => by
      rw [mkResponse_getLsbD, if_neg (by omega), if_neg (by omega), if_pos (by omega),
        Nat.add_sub_cancel_left]
  have hval : (mkResponse rc sc scc val aux).extractLsb' 32 16 = val :=
    extractLsb'_eq_of_getLsbD fun i hi => by
      rw [mkResponse_getLsbD, if_neg (by omega), if_neg (by omega), if_neg (by omega),
        if_neg (by omega), if_pos (by omega), Nat.add_sub_cancel_left]
  have haux : (mkResponse rc sc scc val aux).extractLsb' 48 8 = aux :=
    extractLsb'_eq_of_getLsbD fun i hi => by
      rw [mkResponse_getLsbD, if_neg (by omega), if_neg (by omega), if_neg (by omega),
        if_neg (by omega), if_neg (by omega), Nat.add_sub_cancel_left]
  rw [responseFields, mkResponse_rc, hsc, hscc, hval, haux]

/-- The reserved bits of a response word are zero, whatever its fields (R92). -/
theorem reservedZero_mkResponse (rc sc : Byte) (scc : BitVec 2) (val : Half) (aux : Byte) :
    ReservedZero (mkResponse rc sc scc val aux) := by
  constructor
  · refine extractLsb'_eq_of_getLsbD fun i hi => ?_
    rw [mkResponse_getLsbD, if_neg (by omega), if_neg (by omega), if_neg (by omega),
      if_pos (by omega), BitVec.getLsbD_zero]
  · refine extractLsb'_eq_of_getLsbD fun i hi => ?_
    rw [mkResponse_getLsbD, if_neg (by omega), if_neg (by omega), if_neg (by omega),
      if_neg (by omega), if_neg (by omega), BitVec.getLsbD_of_ge _ _ (by omega),
      BitVec.getLsbD_zero]

/-- Every result's word is made by the one layout of R92. -/
theorem Result.word_eq_mkResponse (r : Result) :
    ∃ rc sc scc val aux, r.word = mkResponse rc sc scc val aux := by
  cases r <;> exact ⟨_, _, _, _, _, rfl⟩

/-- Settles O9: every result's word is `mkResponse` of the fields the table gives it, and the layout
gives them back. -/
theorem responseWordOfEveryResult : Obligations.ResponseWordOfEveryResult := by
  unfold Obligations.ResponseWordOfEveryResult
  refine ⟨fun r => ?reserved, ?_⟩
  case reserved =>
    obtain ⟨rc, sc, scc, val, aux, h⟩ := r.word_eq_mkResponse
    rw [h]
    exact reservedZero_mkResponse rc sc scc val aux
  simp only [Result.word, responseFields_mkResponse, StatusClass.code, Verdict.code, Reason.code,
    ErrorClass.code, implies_true, and_true]

/-- The request of PVAL for a packet of 164 bytes (R96, R210). -/
theorem encode_pval {p : List Byte} (h : p.length = 164) :
    encode (.pval p) = ⟨.op, 0x0000000000A40042#64, p⟩ := by
  have hw : mkWord Opcode.pval.byte 0#8 (BitVec.ofNat 8 164) 0#16 0#16 = 0x0000000000A40042#64 := by
    decide
  simp only [encode, Instr.opcode, Instr.selectorField, Instr.tail, Instr.v0Field, Instr.v1Field,
    Instr.port, h, hw]

/-- Settles O3, word by word: the requests are closed terms but PVAL's, whose packet is any, and that
the decoder reads them back is O1 at the profile. -/
theorem workedRequestAndResponseWords : Obligations.WorkedRequestAndResponseWords := by
  unfold Obligations.WorkedRequestAndResponseWords
  refine ⟨by decide, by decide, by decide, by decide, by decide, by decide,
    fun p hp => encode_pval hp, fun i hi => ?decoded, by decide, by decide, by decide⟩
  case decoded =>
    have hw : ∀ i ∈ [Instr.setPhase 0xFFFD#16, .rdreg .status, .wrreg .data0 [0xFF#8, 0xFD#8],
        .execute 0x1234#16 0x0002#16 [0xAB#8, 0xCD#8], .gboot, .capture],
        i.wf Cfg.profile = true := by decide
    exact decodeEncodeRoundTrip Cfg.profile i (by decide) (hw i hi)

end Sys2Proof.Machine
end

section
/-! PROOF. The status taxonomy (R120) and the signed reading of the status byte (R11, R125). -/

namespace Sys2Proof.Machine

open Sys2Proof.Claims

theorem classify_eq_ok_iff {d : List Int} {x : Int} : classify d x = .ok ↔ x = 0 := by
  unfold classify
  split_ifs with h0 hd <;> simp [h0]

theorem classify_documented {d : List Int} {x : Int} (h0 : x ≠ 0) (hd : x ∈ d) :
    classify d x = .named x := by
  simp [classify, h0, hd]

theorem classify_undocumented {d : List Int} {x : Int} (h0 : x ≠ 0) (hd : x ∉ d) :
    classify d x = .unknown := by
  simp [classify, h0, hd]

/-- A documented code is negative (R9). -/
theorem documented_neg {c : Cfg} (hc : c.WF) {x : Int} (hx : x ∈ c.documented) : x < 0 := by
  obtain ⟨-, -, -, hdoc, -⟩ := hc
  exact (hdoc x hx).2

/-- `sext8` is the two's-complement reading of a byte (R11). -/
theorem sext8_eq_toInt (b : Byte) : sext8 b = b.toInt := by
  rw [sext8, BitVec.toInt_eq_toNat_cond]
  split_ifs <;> omega

/-- The upper byte of STATUS as a number (R31). -/
theorem statusByte_eq_ofNat (v : Half) : statusByte v = BitVec.ofNat 8 (v.toNat / 256) := by
  refine BitVec.eq_of_toNat_eq ?_
  rw [statusByte, BitVec.extractLsb'_toNat, BitVec.toNat_ofNat, Nat.shiftRight_eq_div_pow]

/-- The class of a raw status byte, by its signed reading (R120, R125). -/
theorem classOf_eq (c : Cfg) (raw : Byte) :
    classOf c raw = if raw = 0#8 then .ok
      else if raw.toInt ∈ c.documented then .named raw.toInt
      else .unknown := by
  have hz : raw.toInt = 0 ↔ raw = 0#8 := by rw [← BitVec.toInt_inj, BitVec.toInt_zero]
  simp only [classOf, sext8_eq_toInt, classify, hz]

/-- Settles O11: the three outcomes of `classify` exclude each other because the documented codes are
negative, and an operation classifies `sext8` of the upper byte of STATUS, which is its signed
reading. -/
theorem classifyIsOkExactlyAtZero : Obligations.ClassifyIsOkExactlyAtZero := by
  unfold Obligations.ClassifyIsOkExactlyAtZero
  refine ⟨fun c hc => ⟨fun _ => classify_eq_ok_iff, fun x hx => ?positive, fun x hx => ?documented,
    fun _ => classify_undocumented⟩, fun b => ⟨sext8_eq_toInt b, ?low, ?high⟩, statusByte_eq_ofNat,
    fun c raw _ => classOf_eq c raw⟩
  case positive =>
    exact classify_undocumented hx.ne' fun hd => hx.not_gt (documented_neg hc hd)
  case documented => exact classify_documented (documented_neg hc hx).ne hx
  case low => rw [sext8_eq_toInt]; exact BitVec.le_toInt b
  case high => rw [sext8_eq_toInt]; exact Int.le_of_lt_add_one BitVec.toInt_lt

end Sys2Proof.Machine
end

section
/-! PROOF. A GET and its SET on the bus (R128, R170): the two ids of a parameter, the registers a run
of the sequencer writes from each of its states on, and the first transaction of a SET. -/

namespace Sys2Proof.Machine

open Sys2Proof.Claims

/-! ### The command table and the register addresses -/

/-- R128 (a) for each parameter of a well-formed configuration. -/
theorem oneBit_of_wf {c : Cfg} (hc : c.WF) (p : Param) : (c.cmdTable.of p).OneBit := by
  obtain ⟨-, -, hbit, -⟩ := hc
  exact hbit _ (by cases p <;> simp [CmdTable.of])

theorem popcount_zero : popcount 0#16 = 0 := by decide

theorem getId_ne_setId {p : ParamCommands} (h : p.OneBit) : p.get.id ≠ p.set.id := by
  intro heq
  rw [ParamCommands.OneBit, heq, BitVec.xor_self, popcount_zero] at h
  cases h

/-- The byte order of the wire loses nothing (R11). -/
theorem toBe16_injective : Function.Injective toBe16 := fun v w h => by
  rw [← be16_toBe16 v, h, be16_toBe16]

/-- Two registers have two addresses on the wire (R9, R65). -/
theorem addrBytes_injective {c : Cfg} (hc : c.WF) : Function.Injective (addrBytes c) := by
  intro r r' h
  obtain ⟨haddr, -⟩ := hc
  have all : ∀ r : Reg, r ∈ [Reg.power, .status, .command, .length, .data0] := by
    intro r; cases r <;> simp
  have distinct : ([Reg.power, .status, .command, .length, .data0].map c.regAddr.of).Nodup := haddr
  exact List.inj_on_of_nodup_map distinct (all r) (all r') (toBe16_injective h)

/-! ### What a run writes -/

/-- A `CtrlWrite` transaction (R12). -/
def Event.isCtrlWrite : Event → Bool
  | .ctrlWrite .. => true
  | _ => false

/-- The event is no write of this register: a write on the control bus goes to another address. -/
def Spares (c : Cfg) (r : Reg) (e : Event) : Prop :=
  ∀ dev bytes ok, e = .ctrlWrite dev bytes ok → bytes.take 2 ≠ addrBytes c r

theorem spares_of_not_write {c : Cfg} {r : Reg} {e : Event} (he : e.isCtrlWrite = false) :
    Spares c r e := by
  rintro dev bytes ok rfl
  cases he

theorem spares_wrote {c : Cfg} (hc : c.WF) {r r' : Reg} (h : r' ≠ r) (p : List Byte) (ok : Bool) :
    Spares c r (wrote c r' p ok) := by
  rintro dev bytes ok' heq
  obtain ⟨-, rfl, -⟩ := Event.ctrlWrite.inj heq
  exact fun haddr => h (addrBytes_injective hc haddr)

section Grows

variable {P : Event → Prop} (hP : ∀ e, e.isCtrlWrite = false → P e)
include hP

theorem grew_respond (r : Result) (s : State) : Grew P s (respond r s) :=
  .one rfl (hP _ rfl)

theorem grew_onReply_readReg {reg : Reg} {s hold : State} {e : ErrorClass}
    {go : Half → State → State} (hh : hold.trace = s.trace) (hgo : ∀ v t, Grew P t (go v t)) :
    Grew P s (onReply (readReg reg s) hold e go) := by
  cases h : s.cbReadRsp with
  | nil => rw [readReg_wait h]; exact .refl hh
  | cons a l =>
    cases a with
    | err => rw [readReg_err h]; exact (Grew.one rfl (hP _ rfl)).trans (grew_respond hP _ _)
    | ok b0 b1 => rw [readReg_ok h]; exact (Grew.one rfl (hP _ rfl)).trans (hgo _ _)

theorem grew_onReply_writeReg {reg : Reg} {p : List Byte} {s hold : State} {e : ErrorClass}
    {go : Unit → State → State} (hw : ∀ ok, P (wrote s.cfg reg p ok)) (hh : hold.trace = s.trace)
    (hgo : ∀ t, t.cfg = s.cfg → Grew P t (go () t)) :
    Grew P s (onReply (writeReg reg p s) hold e go) := by
  cases h : s.cbWriteRsp with
  | nil => rw [writeReg_wait h]; exact .refl hh
  | cons a l =>
    cases a with
    | err => rw [writeReg_err h]; exact (Grew.one rfl (hw false)).trans (grew_respond hP _ _)
    | ok => rw [writeReg_ok h]; exact (Grew.one rfl (hw true)).trans (hgo _ rfl)

theorem grew_finishStatus (s : State) : Grew P s (finishStatus s) := by
  unfold finishStatus
  split
  · exact grew_respond hP _ s
  · exact grew_respond hP _ s
  · exact grew_respond hP _ (latchStatusCode s)
  · exact grew_respond hP _ (latchStatusCode s)

theorem grew_runRdStatus (s : State) : Grew P s (runRdStatus s) :=
  grew_onReply_readReg hP (s := { s with ccsState := .rdStatus }) rfl fun v t =>
    grew_finishStatus hP { t with statusR := v }

theorem grew_runRdData (s : State) : Grew P s (runRdData s) :=
  grew_onReply_readReg hP (s := { s with ccsState := .rdData }) rfl fun v t =>
    grew_runRdStatus hP { t with rdValR := v }

theorem grew_afterPoll (s : State) : Grew P s (afterPoll s) := by
  unfold afterPoll
  split
  · exact grew_runRdStatus hP s
  · exact grew_runRdData hP s
  · exact grew_respond hP _ s

theorem grew_pollWait {poll : State → State} (hp : ∀ u, Grew P u (poll u)) (s : State) :
    Grew P s (pollWait poll s) := by
  rcases pollWait_cases poll s with ⟨-, h⟩ | ⟨n, -, h⟩ <;> rw [h]
  · exact .refl rfl
  · exact (Grew.one rfl (hP _ rfl)).trans (hp _)

/-- The poll loop, and whatever follows it, writes nothing (R147, R158). -/
theorem grew_pollLoop (n : Nat) (s : State) : Grew P s (pollLoop n s) := by
  induction n generalizing s with
  | zero => exact .refl rfl
  | succ n ih =>
    refine grew_onReply_readReg hP (s := { s with ccsState := .poll }) rfl fun v t => ?_
    have next : ∀ {w}, Grew P { t with statusR := v, pollCnt := t.pollCnt + 1 } w → Grew P t w :=
      (Grew.refl rfl).trans
    dsimp only
    split_ifs
    · exact next (grew_afterPoll hP _)
    · exact next (grew_respond hP _ _)
    · exact next (grew_pollWait hP ih _)

theorem grew_runWrCmd {s : State} (hcmd : ∀ p ok, P (wrote s.cfg .command p ok)) :
    Grew P s (runWrCmd s) :=
  grew_onReply_writeReg hP (s := { s with ccsState := .wrCmd }) (hcmd _) rfl fun t _ =>
    grew_pollLoop hP _ { t with pollCnt := 0 }

/-- From `C_WR_LEN` on, LENGTH and COMMAND are all that is written (R146, R158). -/
theorem grew_runWrLen {s : State} (hlen : ∀ p ok, P (wrote s.cfg .length p ok))
    (hcmd : ∀ p ok, P (wrote s.cfg .command p ok)) : Grew P s (runWrLen s) :=
  grew_onReply_writeReg hP (s := { s with ccsState := .wrLen }) (hlen _) rfl fun t ht =>
    grew_runWrCmd hP (s := t) (by rw [ht]; exact hcmd)

end Grows

/-- A GET spares DATA0, however it ends (R170). -/
theorem runGet_spares_data0 {s : State} (hc : s.cfg.WF) (p : Param) :
    Grew (Spares s.cfg .data0) s (runGet p s) :=
  grew_runWrLen (s := latchCommand (getCommand s.cfg p) s)
    (fun _ => spares_of_not_write) (spares_wrote hc nofun) (spares_wrote hc nofun)

/-- A run from `C_WR_DATA` on has no transaction yet, or the DATA0 write is its oldest (R145, R158). -/
theorem runWrData_writes_data0_first (s : State) : (runWrData s).trace = s.trace
    ∨ ∃ later ok, (runWrData s).trace = later ++ wrote s.cfg .data0 s.payR ok :: s.trace := by
  cases h : s.cbWriteRsp with
  | nil => rw [runWrData, writeReg_wait (by exact h)]; exact .inl rfl
  | cons a l =>
    cases a with
    | err => rw [runWrData, writeReg_err (by exact h)]; exact .inr ⟨[_], false, rfl⟩
    | ok =>
      rw [runWrData, writeReg_ok (by exact h), onReply_ok]
      obtain ⟨later, hl, -⟩ := (runWrLen_ends _ rfl rfl).grew
      exact .inr ⟨later, true, hl⟩

/-- The oldest event of a SET is the DATA0 write of its operand (R170). -/
theorem runSet_writes_data0_first (p : Param) (v : Half) (s : State) :
    (runSet p v s).trace = s.trace
      ∨ ∃ later ok, (runSet p v s).trace = later ++ wrote s.cfg .data0 (toBe16 v) ok :: s.trace :=
  runWrData_writes_data0_first
    (latchPayload (toBe16 v) (latchCommand (setCommand s.cfg p) { s with valR := v }))

/-! ### The twelve operations -/

/-- The six GETs are GET_SEQ of their parameter (R170). -/
theorem exec_getOp (p : Param) (s : State) : exec (getOp p) s = dispatch (.get p) (runGet p) s := by
  cases p <;> rfl

/-- The six SETs are SET_SEQ of their parameter (R170). -/
theorem exec_setOp (p : Param) (v : Half) (s : State) :
    exec (setOp v p) s = dispatch (.set p) (runSet p v) s := by
  cases p <;> rfl

/-- Settles O31: R128 (a) makes the ids differ in one bit, a GET begins at `C_WR_LEN` and so writes
LENGTH and COMMAND alone, and a SET begins at `C_WR_DATA`. -/
theorem getAndSetDifferOnTheBus : Obligations.GetAndSetDifferOnTheBus := by
  unfold Obligations.GetAndSetDifferOnTheBus
  refine ⟨fun c p hc => ⟨getId_ne_setId (oneBit_of_wf hc p), oneBit_of_wf hc p⟩,
    fun p s t hc h => ?get, fun p v s t hb h => ?set⟩
  case get =>
    have hgrew : Grew (Spares s.cfg .data0) s t := by
      rw [exec_getOp] at h
      obtain ⟨-, rfl⟩ | ⟨-, rfl⟩ := dispatch_cases h
      · exact .refl rfl
      · exact runGet_spares_data0 (s := accept (.get p) s) hc p
    obtain ⟨new, ht, hnew⟩ := hgrew
    exact ⟨new, ht, fun dev bytes ok he => hnew _ he dev bytes ok rfl⟩
  case set =>
    rw [exec_setOp, dispatch_idle hb] at h
    cases h
    obtain hw | ⟨later, ok, hw⟩ := runSet_writes_data0_first p v (accept (.set p) s)
    · exact ⟨[], hw, .inl rfl⟩
    · exact ⟨later ++ [wrote s.cfg .data0 (toBe16 v) ok], by simp [hw], .inr ⟨later, ok, rfl⟩⟩

end Sys2Proof.Machine
end

section
/-! PROOF. What a run of the sequencer answers (R140 to R158), said once: in each of its states by the
answer at hand, then for the two or three writes of a command and for a number of busy polls. -/

namespace Sys2Proof.Machine

open Sys2Proof.Claims

/-! ### The fields of a STATUS value read as two bytes -/

theorem be16_getLsbD (b0 b1 : Byte) (i : Nat) :
    (be16 b0 b1).getLsbD i = if i < 8 then b1.getLsbD i else b0.getLsbD (i - 8) :=
  BitVec.getLsbD_append

theorem busyBit_be16 (b0 b1 : Byte) : busyBit (be16 b0 b1) = b1.getLsbD 0 := be16_getLsbD b0 b1 0

theorem bootBit_be16 (b0 b1 : Byte) : bootBit (be16 b0 b1) = b1.getLsbD 1 := be16_getLsbD b0 b1 1

@[simp] theorem statusByte_be16 (b0 b1 : Byte) : statusByte (be16 b0 b1) = b0 := by
  refine BitVec.eq_of_getLsbD_eq fun i hi => ?_
  simp [statusByte, be16_getLsbD, hi]

/-! ### One register access -/

theorem runWrReg_ok {s : State} {reg : Reg} {ws : List WriteAnswer}
    (hr : s.regR = reg.selector) (h : s.cbWriteRsp = .ok :: ws) :
    runWrReg s = ended { s with cbWriteRsp := ws } .done
      (wrote s.cfg reg s.payR true :: s.trace) := by
  rw [runWrReg, hr, latchedReg_selector, writeReg_ok (by exact h)]; rfl

theorem runWrReg_err {s : State} {reg : Reg} {ws : List WriteAnswer}
    (hr : s.regR = reg.selector) (h : s.cbWriteRsp = .err :: ws) :
    runWrReg s = ended { s with cbWriteRsp := ws } (.error .ctrlBusError)
      (wrote s.cfg reg s.payR false :: s.trace) := by
  rw [runWrReg, hr, latchedReg_selector, writeReg_err (by exact h)]; rfl

theorem runRdReg_ok {s : State} {reg : Reg} {b0 b1 : Byte} {rs : List ReadAnswer}
    (hr : s.regR = reg.selector) (h : s.cbReadRsp = .ok b0 b1 :: rs) :
    runRdReg s = ended { s with cbReadRsp := rs, rdValR := be16 b0 b1 } (.value (be16 b0 b1))
      (didRead s.cfg reg (b0, b1) :: s.trace) := by
  rw [runRdReg, hr, latchedReg_selector, readReg_ok (by exact h)]; rfl

theorem runRdReg_err {s : State} {reg : Reg} {rs : List ReadAnswer}
    (hr : s.regR = reg.selector) (h : s.cbReadRsp = .err :: rs) :
    runRdReg s = ended { s with cbReadRsp := rs } (.error .ctrlBusError)
      (readFailed s.cfg reg :: s.trace) := by
  rw [runRdReg, hr, latchedReg_selector, readReg_err (by exact h)]; rfl

/-- The state after the STATUS read of `C_RD_STATUS` (R158). -/
def statusRead (s : State) (b0 b1 : Byte) (rs : List ReadAnswer) : State :=
  { s with
    ccsState := .rdStatus, cbReadRsp := rs, statusR := be16 b0 b1
    trace := didRead s.cfg .status (b0, b1) :: s.trace }

@[simp] theorem statusRead_statusR (s : State) (b0 b1 : Byte) (rs : List ReadAnswer) :
    (statusRead s b0 b1 rs).statusR = be16 b0 b1 := rfl

theorem runRdStatus_ok {s : State} {b0 b1 : Byte} {rs : List ReadAnswer}
    (h : s.cbReadRsp = .ok b0 b1 :: rs) :
    runRdStatus s = finishStatus (statusRead s b0 b1 rs) := by
  rw [runRdStatus, readReg_ok (by exact h)]; rfl

theorem runRdStatus_err {s : State} {rs : List ReadAnswer} (h : s.cbReadRsp = .err :: rs) :
    runRdStatus s = ended { s with cbReadRsp := rs } (.error .ctrlBusError)
      (readFailed s.cfg .status :: s.trace) := by
  rw [runRdStatus, readReg_err (by exact h)]; rfl

theorem finishStatus_gboot {s : State} (h : s.opR = Opcode.gboot.byte) :
    finishStatus s = respond (.truth (bootBit s.statusR)) s := by
  rw [finishStatus, h, ofByte?_byte]

theorem finishStatus_gifst {s : State} (h : s.opR = Opcode.gifst.byte) :
    finishStatus s = respond (.truth (!busyBit s.statusR)) s := by
  rw [finishStatus, h, ofByte?_byte]

theorem finishStatus_gstat {s : State} (h : s.opR = Opcode.gstat.byte) :
    finishStatus s = respond (.status (statusByte s.statusR) (statusClass (latchStatusCode s)))
      (latchStatusCode s) := by
  rw [finishStatus, h, ofByte?_byte]

/-! ### The poll loop -/

theorem answers_concat (busy : List (Byte × Byte)) (last : Byte × Byte) (rs : List ReadAnswer) :
    answers (busy ++ [last]) ++ rs = answers busy ++ .ok last.1 last.2 :: rs := by
  simp [answers]

theorem pollBound_eq_false_iff {s : State} : pollBound s = false ↔ PollsAllowed s.cfg s.pollCnt := by
  unfold pollBound PollsAllowed
  cases s.cfg.maxPolls <;> simp

/-- The state after an answered STATUS read of `C_POLL` (R158). -/
def pollRead (s : State) (b : Byte × Byte) (rs : List ReadAnswer) : State :=
  { s with
    ccsState := .poll, cbReadRsp := rs, statusR := be16 b.1 b.2, pollCnt := s.pollCnt + 1
    trace := didRead s.cfg .status b :: s.trace }

theorem runPoll_of_read {s : State} {b : Byte × Byte} {rs : List ReadAnswer}
    (h : s.cbReadRsp = .ok b.1 b.2 :: rs) :
    runPoll s = if busyBit (be16 b.1 b.2) = false then afterPoll (pollRead s b rs)
      else if pollBound (pollRead s b rs) then raise .deviceUnresponsive (pollRead s b rs)
      else pollWait runPoll (pollRead s b rs) := by
  rw [runPoll_eq, readReg_ok (by exact h)]; rfl

/-- The poll loop does not look at the state it comes from (R158). -/
theorem runPoll_ccsState (s : State) (c : CcsState) : runPoll { s with ccsState := c } = runPoll s := by
  rw [runPoll_eq, runPoll_eq]

theorem runPoll_unanswered {s : State} (h : s.cbReadRsp = []) :
    runPoll s = { s with ccsState := .poll } := by
  rw [runPoll_eq, readReg_wait (by exact h), onReply_wait]

theorem runPoll_err {s : State} {rs : List ReadAnswer} (h : s.cbReadRsp = .err :: rs) :
    runPoll s = ended { s with cbReadRsp := rs } (.error .ctrlBusError)
      (readFailed s.cfg .status :: s.trace) := by
  rw [runPoll_eq, readReg_err (by exact h)]; rfl

theorem runPoll_ready {s : State} {b : Byte × Byte} {rs : List ReadAnswer}
    (h : s.cbReadRsp = .ok b.1 b.2 :: rs) (hb : Ready b) :
    runPoll s = afterPoll (pollRead s b rs) := by
  rw [runPoll_of_read h, if_pos hb]

theorem runPoll_busy {s : State} {b : Byte × Byte} {rs : List ReadAnswer}
    (h : s.cbReadRsp = .ok b.1 b.2 :: rs) (hb : Busy b) (hm : PollsAllowed s.cfg (s.pollCnt + 1)) :
    runPoll s = pollWait runPoll (pollRead s b rs) := by
  have hbound : pollBound (pollRead s b rs) = false := pollBound_eq_false_iff.2 hm
  rw [runPoll_of_read h, if_neg (by rw [hb]; nofun), if_neg (by rw [hbound]; nofun)]

/-- The busy read that reaches the bound (R148). -/
theorem runPoll_unresponsive {s : State} {b : Byte × Byte} {rs : List ReadAnswer}
    (h : s.cbReadRsp = .ok b.1 b.2 :: rs) (hb : Busy b)
    (hm : s.cfg.maxPolls = some (s.pollCnt + 1)) :
    runPoll s = ended (pollRead s b rs) (.error .deviceUnresponsive)
      (didRead s.cfg .status b :: s.trace) := by
  have hbound : pollBound (pollRead s b rs) = true := by simp [pollBound, pollRead, hm]
  rw [runPoll_of_read h, if_neg (by rw [hb]; nofun), if_pos hbound]
  rfl

/-- Back in `C_POLL` after the busy STATUS reads `busy` and the wait after each (R147), with the
answers `rs` and `n` expiries of the timer still to come. -/
def polledBusy (s : State) (busy : List (Byte × Byte)) (rs : List ReadAnswer) (n : Nat) : State :=
  { s with
    statusR := lastStatus s.statusR busy, pollCnt := s.pollCnt + busy.length, cbReadRsp := rs
    timerRsp := n, trace := polled s.cfg busy s.trace }

theorem polledBusy_cons (s : State) (b : Byte × Byte) (busy : List (Byte × Byte))
    (rs rs' : List ReadAnswer) (n n' : Nat) :
    polledBusy (polledBusy s [b] rs' n') busy rs n = polledBusy s (b :: busy) rs n := by
  simp [polledBusy, polled, lastStatus, Nat.add_assoc, Nat.add_comm 1]

/-- A busy read below the bound and the wait after it lead to the next read (R147). -/
theorem runPoll_busy_expired {s : State} {b : Byte × Byte} {rs : List ReadAnswer} {n : Nat}
    (h : s.cbReadRsp = .ok b.1 b.2 :: rs) (hb : Busy b) (ht : s.timerRsp = n + 1)
    (hm : PollsAllowed s.cfg (s.pollCnt + 1)) : runPoll s = runPoll (polledBusy s [b] rs n) := by
  rw [runPoll_busy h hb hm, pollWait_over (by exact ht)]
  exact runPoll_ccsState (polledBusy s [b] rs n) .pollWait

/-- Busy reads below the bound, the timer running out after each, lead to the next read (R147). -/
theorem runPoll_polledBusy {s : State} {busy : List (Byte × Byte)} {rs : List ReadAnswer} {n : Nat}
    (hr : s.cbReadRsp = answers busy ++ rs) (hb : ∀ b ∈ busy, Busy b)
    (ht : s.timerRsp = busy.length + n) (hm : PollsAllowed s.cfg (s.pollCnt + busy.length)) :
    runPoll s = runPoll (polledBusy s busy rs n) := by
  induction busy generalizing s with
  | nil =>
    obtain rfl : s.cbReadRsp = rs := hr
    obtain rfl : s.timerRsp = n := by simpa using ht
    rfl
  | cons b busy ih =>
    obtain ⟨hb, hbusy⟩ := List.forall_mem_cons.1 hb
    rw [List.length_cons] at ht hm
    have hnow : PollsAllowed s.cfg (s.pollCnt + 1) := fun m h => by have := hm m h; omega
    have hlater : PollsAllowed s.cfg (s.pollCnt + 1 + busy.length) := fun m h => by
      have := hm m h; omega
    rw [runPoll_busy_expired hr hb (ht.trans (Nat.add_right_comm ..)) hnow,
      ih (by exact rfl) hbusy (by exact rfl) (by exact hlater), polledBusy_cons]

/-- EXEC answers OK once bit 0 is clear (R149, R158). -/
theorem afterPoll_execute {s : State} (h : s.opR = Opcode.execute.byte) :
    afterPoll s = ended s .done s.trace := by
  rw [afterPoll, h, ofByte?_byte]; rfl

/-! ### The writes of a command -/

theorem runWrLen_err {s : State} {ws : List WriteAnswer} (h : s.cbWriteRsp = .err :: ws) :
    runWrLen s = ended { s with cbWriteRsp := ws } (.error .ctrlBusError)
      (wrote s.cfg .length (toBe16 s.cmdLenR) false :: s.trace) := by
  rw [runWrLen, writeReg_err (by exact h)]; rfl

theorem runWrLen_ok {s : State} {ws : List WriteAnswer} (h : s.cbWriteRsp = .ok :: ws) :
    runWrLen s = runWrCmd { s with
      cbWriteRsp := ws, trace := wrote s.cfg .length (toBe16 s.cmdLenR) true :: s.trace } := by
  rw [runWrLen, writeReg_ok (by exact h)]; rfl

/-- The COMMAND write fails after the LENGTH write (R153). -/
theorem runWrLen_ok_err {s : State} {ws : List WriteAnswer}
    (h : s.cbWriteRsp = .ok :: .err :: ws) :
    runWrLen s = ended { s with cbWriteRsp := ws } (.error .ctrlBusError)
      (wrote s.cfg .command (toBe16 s.cmdIdR) false
        :: wrote s.cfg .length (toBe16 s.cmdLenR) true :: s.trace) := by
  rw [runWrLen_ok h, runWrCmd, writeReg_err (by exact rfl)]; rfl

/-- The command with its payload is sent and the poll begun, its counter at 0 (R146, R147, R158). -/
def polling (s : State) (payload : List Byte) (ws : List WriteAnswer) : State :=
  { s with
    pollCnt := 0, cbWriteRsp := ws
    trace := commandSent s.cfg s.cmdIdR s.cmdLenR payload s.trace }

/-- Without a payload the command is sent and `busy` is read, a wait after each (R146, R147). -/
theorem runWrLen_polledBusy {s : State} {busy : List (Byte × Byte)} {ws : List WriteAnswer}
    {rs : List ReadAnswer} {n : Nat} (hw : s.cbWriteRsp = .ok :: .ok :: ws)
    (hr : s.cbReadRsp = answers busy ++ rs) (hb : ∀ b ∈ busy, Busy b)
    (ht : s.timerRsp = busy.length + n) (hm : PollsAllowed s.cfg busy.length) :
    runWrLen s = runPoll (polledBusy (polling s [] ws) busy rs n) := by
  have hsent : runWrLen s = runPoll (polling s [] ws) := by
    rw [runWrLen_ok hw, runWrCmd, writeReg_ok (by exact rfl), onReply_ok]
    exact runPoll_ccsState (polling s [] ws) .wrCmd
  rw [hsent]
  exact runPoll_polledBusy hr hb ht ((Nat.zero_add busy.length).symm ▸ hm)

theorem runExec_data0_err {s : State} {ws : List WriteAnswer} (hp : s.payR ≠ [])
    (h : s.cbWriteRsp = .err :: ws) :
    runExec s = ended { s with cbWriteRsp := ws } (.error .ctrlBusError)
      (wrote s.cfg .data0 s.payR false :: s.trace) := by
  rw [runExec, if_neg hp, runWrData, writeReg_err (by exact h)]; rfl

/-- The state before the LENGTH write: DATA0 is written if there is a payload (R145). -/
def dataWritten (s : State) (ws : List WriteAnswer) : State :=
  { s with cbWriteRsp := ws, trace := dataDone s.cfg s.payR s.trace }

theorem runExec_dataWritten {s : State} {ws : List WriteAnswer}
    (h : s.cbWriteRsp = dataOk s.payR ++ ws) : runExec s = runWrLen (dataWritten s ws) := by
  by_cases hp : s.payR = []
  · obtain rfl : s.cbWriteRsp = ws := by simpa [dataOk, hp] using h
    rw [runExec, if_pos hp, dataWritten, dataDone, if_pos hp]
  · have hok : s.cbWriteRsp = .ok :: ws := by simpa [dataOk, hp] using h
    rw [runExec, if_neg hp, runWrData, writeReg_ok (by exact hok), dataWritten, dataDone, if_neg hp]
    rfl

/-- The command is sent, its payload first, and `busy` is read, a wait after each (R145 to R147). -/
theorem runExec_polledBusy {s : State} {busy : List (Byte × Byte)} {ws : List WriteAnswer}
    {rs : List ReadAnswer} {n : Nat} (hw : s.cbWriteRsp = dataOk s.payR ++ .ok :: .ok :: ws)
    (hr : s.cbReadRsp = answers busy ++ rs) (hb : ∀ b ∈ busy, Busy b)
    (ht : s.timerRsp = busy.length + n) (hm : PollsAllowed s.cfg busy.length) :
    runExec s = runPoll (polledBusy (polling s s.payR ws) busy rs n) := by
  rw [runExec_dataWritten hw]
  exact runWrLen_polledBusy (s := dataWritten s _) rfl hr hb ht hm

/-! ### Operations accepted while the core is idle -/

/-- In flight on the control channel (R251, R252). -/
def onCtrl (s : State) : State := { s with opBusy := true, chanSel := .ctrl }

theorem exec_idle {i : Instr} {s : State} (h : s.opBusy = false) (hi : i.opcode ≠ .rdframe) :
    exec i s = .next (opStart i (opLatch i (accept i.opcode s))) := by
  rw [exec_eq_dispatch hi, dispatch_idle h]

theorem exec_wrreg_idle {s : State} (h : s.opBusy = false) (reg : Reg) (payload : List Byte) :
    exec (.wrreg reg payload) s = .next (runWrReg (onCtrl { s with
      opR := Opcode.wrreg.byte, regR := reg.selector, payR := payload
      payLenR := BitVec.ofNat 8 payload.length })) :=
  exec_idle h nofun

theorem exec_rdreg_idle {s : State} (h : s.opBusy = false) (reg : Reg) :
    exec (.rdreg reg) s = .next (runRdReg (onCtrl { s with
      opR := Opcode.rdreg.byte, regR := reg.selector })) :=
  exec_idle h nofun

theorem exec_gboot_idle {s : State} (h : s.opBusy = false) :
    exec .gboot s = .next (runRdStatus (onCtrl { s with opR := Opcode.gboot.byte })) :=
  exec_idle h nofun

theorem exec_gifst_idle {s : State} (h : s.opBusy = false) :
    exec .gifst s = .next (runRdStatus (onCtrl { s with opR := Opcode.gifst.byte })) :=
  exec_idle h nofun

theorem exec_gstat_idle {s : State} (h : s.opBusy = false) :
    exec .gstat s = .next (runRdStatus (onCtrl { s with opR := Opcode.gstat.byte })) :=
  exec_idle h nofun

theorem exec_execute_idle {s : State} (h : s.opBusy = false) (id len : Half)
    (payload : List Byte) :
    exec (.execute id len payload) s = .next (runExec (onCtrl (execLatched s id len payload))) :=
  exec_idle h nofun

/-- EXEC has sent its command and read `busy`, a wait after each (R144 to R147). -/
theorem exec_execute_polledBusy {s : State} {id len : Half} {payload : List Byte}
    {busy : List (Byte × Byte)} {ws : List WriteAnswer} {rs : List ReadAnswer} {n : Nat}
    (h : s.opBusy = false) (hw : s.cbWriteRsp = dataOk payload ++ .ok :: .ok :: ws)
    (hr : s.cbReadRsp = answers busy ++ rs) (hb : ∀ b ∈ busy, Busy b)
    (ht : s.timerRsp = busy.length + n) (hm : PollsAllowed s.cfg busy.length) :
    exec (.execute id len payload) s = .next (runPoll
      (polledBusy (polling (onCtrl (execLatched s id len payload)) payload ws) busy rs n)) := by
  rw [exec_execute_idle h]
  exact congrArg _ (runExec_polledBusy (s := onCtrl (execLatched s id len payload)) hw hr hb ht hm)

theorem exec_getOp_idle {s : State} (h : s.opBusy = false) (p : Param) :
    exec (getOp p) s = .next (runWrLen (onCtrl (getLatched s p))) := by
  rw [exec_getOp, dispatch_idle h]
  cases p <;> rfl

/-- A SET runs as EXEC with its operand as the payload (R170). -/
theorem exec_setOp_idle {s : State} (h : s.opBusy = false) (p : Param) (v : Half) :
    exec (setOp v p) s = .next (runExec (onCtrl (setLatched s p v))) := by
  rw [exec_setOp, dispatch_idle h]
  cases p <;> rfl

end Sys2Proof.Machine
end

section
/-! PROOF. The statements about the control-channel operations (R140 to R153) and about the errors of a
GET or SET up to the end of its poll (R170): each clause is one run of the sequencer. -/

namespace Sys2Proof.Machine

open Sys2Proof.Claims

/-! ### EXEC -/

/-- Settles O23: the writes, the busy polls, and a ready read, after which EXEC answers OK. -/
theorem execCompletes : Obligations.ExecCompletes := by
  unfold Obligations.ExecCompletes
  intro id len payload s busy r ws rs n hi hw hr hb hready ht hm
  rw [exec_execute_polledBusy hi hw hr hb ht hm, runPoll_ready (by exact rfl) hready,
    afterPoll_execute rfl]
  simp [ended, pollRead, polledBusy, polling, onCtrl, execLatched]

/-- Settles O24: three failed writes, and a read that fails after the busy polls. -/
theorem execAbortsWhereATransactionFails : Obligations.ExecAbortsWhereATransactionFails := by
  unfold Obligations.ExecAbortsWhereATransactionFails
  intro id len payload s ws hi u
  refine ⟨fun hp hw => ?data0, fun hw => ?length, fun hw => ?command,
    fun busy rs n hw hr hb ht hm => ?status⟩
  case data0 =>
    rw [exec_execute_idle hi, runExec_data0_err (by exact hp) (by exact hw)]; rfl
  case length =>
    rw [exec_execute_idle hi, runExec_dataWritten (by exact hw), runWrLen_err (by exact rfl)]; rfl
  case command =>
    rw [exec_execute_idle hi, runExec_dataWritten (by exact hw), runWrLen_ok_err (by exact rfl)]; rfl
  case status =>
    rw [exec_execute_polledBusy hi hw hr hb ht hm, runPoll_err (by exact rfl)]
    simp [ended, polledBusy, polling, onCtrl, execLatched, u]

/-- Settles O25: after the busy reads before it, the last busy read meets the bound; without a bound
the loop is back in `C_POLL`. -/
theorem pollBoundDecidesTheLoop : Obligations.PollBoundDecidesTheLoop := by
  unfold Obligations.PollBoundDecidesTheLoop
  intro id len payload s busy ws n hi hw hb ht
  refine ⟨fun last rs hlast hm hr => ?bound, fun hm hr => ?unbounded⟩
  case bound =>
    have hallowed : PollsAllowed s.cfg busy.length := fun m h => by
      rw [hm] at h; cases h; exact Nat.lt_succ_self _
    rw [answers_concat] at hr
    rw [exec_execute_polledBusy hi hw hr hb ht hallowed, runPoll_unresponsive (by exact rfl) hlast]
    · simp [ended, pollRead, polledBusy, polling, onCtrl, execLatched]
    · simpa [polledBusy, polling, onCtrl, execLatched] using hm
  case unbounded =>
    have hallowed : PollsAllowed s.cfg busy.length := fun m h => by rw [hm] at h; cases h
    have hruns := exec_execute_polledBusy (id := id) (len := len) hi hw
      (hr.trans (List.append_nil _).symm) hb ht hallowed
    rw [runPoll_unanswered (by exact rfl)] at hruns
    exact ⟨_, hruns, rfl, rfl, rfl, rfl, Nat.zero_add _, rfl, rfl, rfl⟩

/-- Settles O58: the last busy read, the bound not being reached, leads to a wait that is not over;
and what a wait does once taken up again. -/
theorem pollWaitHoldsUntilTheTimer : Obligations.PollWaitHoldsUntilTheTimer := by
  unfold Obligations.PollWaitHoldsUntilTheTimer
  refine ⟨fun id len payload s busy last ws rs hi hw hb hlast hr ht hm => ?enters,
    fun s hc hp => ⟨fun ht => ?stays, fun n ht => ?goes⟩⟩
  case enters =>
    have hallowed : PollsAllowed s.cfg busy.length := fun m h => Nat.lt_of_succ_lt (hm m h)
    rw [answers_concat] at hr
    rw [exec_execute_polledBusy hi hw hr hb (n := 0) ht hallowed, runPoll_busy (by exact rfl) hlast,
      pollWait_hold (by exact rfl)]
    · simp [pollRead, polledBusy, polling, onCtrl, execLatched]
    · simpa [polledBusy, polling, onCtrl, execLatched] using hm
  case stays =>
    rw [resume_of_ctrl hc, ccsRun, hp]
    dsimp only
    rw [pollWait_hold ht, ← hp]
  case goes =>
    rw [resume_of_ctrl hc, resume_of_ctrl (by exact hc), ccsRun, hp]
    dsimp only
    rw [pollWait_over ht]
    exact (runPoll_ccsState _ _).symm

/-! ### GET and SET up to the end of the poll -/

/-- Settles O59: a SET is EXEC with its operand as the payload and a GET begins at the LENGTH write, so
each ends where a write fails, or at a read that fails after the busy polls. -/
theorem getAndSetAbortUpToThePoll : Obligations.GetAndSetAbortUpToThePoll := by
  unfold Obligations.GetAndSetAbortUpToThePoll
  intro p v s ws hi c a g
  rw [exec_setOp_idle hi, exec_getOp_idle hi]
  refine ⟨fun hw => ?setData, fun hw => ?setLength, fun hw => ?setCommand, fun hw => ?getLength,
    fun hw => ?getCommand, fun busy rs n hr hb ht hm => ⟨fun hw => ?setStatus, fun hw => ?getStatus⟩⟩
  case setData => rw [runExec_data0_err (List.cons_ne_nil _ _) (by exact hw)]; rfl
  case setLength => rw [runExec_dataWritten (by exact hw), runWrLen_err (by exact rfl)]; rfl
  case setCommand => rw [runExec_dataWritten (by exact hw), runWrLen_ok_err (by exact rfl)]; rfl
  case getLength => rw [runWrLen_err (by exact hw)]; rfl
  case getCommand => rw [runWrLen_ok_err (by exact hw)]; rfl
  case setStatus =>
    rw [runExec_polledBusy (by exact hw) (by exact hr) hb (by exact ht) (by exact hm),
      runPoll_err (by exact rfl)]
    simp [ended, polledBusy, polling, onCtrl, setLatched, setSent, a]
  case getStatus =>
    rw [runWrLen_polledBusy (by exact hw) (by exact hr) hb (by exact ht) (by exact hm),
      runPoll_err (by exact rfl)]
    simp [ended, polledBusy, polling, onCtrl, getLatched, getSent, g]

/-! ### The operations of one transaction -/

/-- Settles O18: the one write succeeds or fails. -/
theorem wrregResult : Obligations.WrregResult := by
  unfold Obligations.WrregResult
  intro reg payload s ws hi u
  rw [exec_wrreg_idle hi]
  refine ⟨fun hw => ?ok, fun hw => ?err⟩
  case ok => rw [runWrReg_ok (reg := reg) rfl (by exact hw)]; rfl
  case err => rw [runWrReg_err (reg := reg) rfl (by exact hw)]; rfl

/-- Settles O19: the one read gives a value or fails. -/
theorem rdregResult : Obligations.RdregResult := by
  unfold Obligations.RdregResult
  intro reg s rs hi u
  rw [exec_rdreg_idle hi]
  refine ⟨fun b0 b1 hr => ?ok, fun hr => ?err⟩
  case ok => rw [runRdReg_ok (reg := reg) rfl (by exact hr)]; rfl
  case err => rw [runRdReg_err (reg := reg) rfl (by exact hr)]; rfl

/-- Settles O20: bit 1 of STATUS is bit 1 of its low byte, the second one read. -/
theorem gbootResult : Obligations.GbootResult := by
  unfold Obligations.GbootResult
  intro s rs hi u
  rw [exec_gboot_idle hi]
  refine ⟨fun b0 b1 hr => ?ok, fun hr => ?err⟩
  case ok =>
    rw [runRdStatus_ok (by exact hr), finishStatus_gboot rfl, statusRead_statusR, bootBit_be16]; rfl
  case err => rw [runRdStatus_err (by exact hr)]; rfl

/-- Settles O21: bit 0 of STATUS is bit 0 of its low byte, and 0 means ready. -/
theorem gifstResult : Obligations.GifstResult := by
  unfold Obligations.GifstResult
  intro s rs hi u
  rw [exec_gifst_idle hi]
  refine ⟨fun b0 b1 hr => ?ok, fun hr => ?err⟩
  case ok =>
    rw [runRdStatus_ok (by exact hr), finishStatus_gifst rfl, statusRead_statusR, busyBit_be16]; rfl
  case err => rw [runRdStatus_err (by exact hr)]; rfl

/-- Settles O22: the upper byte of STATUS is the first one read; it is latched and classified. -/
theorem gstatResult : Obligations.GstatResult := by
  unfold Obligations.GstatResult
  intro s rs hi u
  rw [exec_gstat_idle hi]
  refine ⟨fun b0 b1 hr => ?ok, fun hr => ?err⟩
  case ok =>
    rw [runRdStatus_ok (by exact hr), finishStatus_gstat rfl, latchStatusCode, statusRead_statusR,
      statusByte_be16]
    rfl
  case err => rw [runRdStatus_err (by exact hr)]; rfl

end Sys2Proof.Machine
end

section
/-! PROOF. What a GET or a SET does once its poll has ended (R158, R170), and the twelve configuration
operations to their end (R170 to R184). -/

namespace Sys2Proof.Machine

open Sys2Proof.Claims

/-! ### After the poll -/

/-- The odd opcode of a pair is its SET (R96). -/
theorem getByte_succ (p : Param) : getByte p + 1#8 = (Opcode.set p).byte := by
  cases p <;> rfl

theorem getByte_eq (p : Param) : getByte p = (Opcode.get p).byte := by
  cases p <;> rfl

/-- A SET reads the status once bit 0 is clear (R158, R170). -/
theorem afterPoll_set {s : State} {p : Param} (h : s.opR = getByte p + 1#8) :
    afterPoll s = runRdStatus s := by
  rw [afterPoll, h, getByte_succ, ofByte?_byte]

/-- A GET reads the data once bit 0 is clear (R158, R170). -/
theorem afterPoll_get {s : State} {p : Param} (h : s.opR = getByte p) :
    afterPoll s = runRdData s := by
  rw [afterPoll, h, getByte_eq, ofByte?_byte]

theorem finishStatus_set {s : State} {p : Param} (h : s.opR = getByte p + 1#8) :
    finishStatus s = respond (.status (statusByte s.statusR) (statusClass (latchStatusCode s)))
      (latchStatusCode s) := by
  rw [finishStatus, h, getByte_succ, ofByte?_byte]

theorem finishStatus_get {s : State} {p : Param} (h : s.opR = getByte p) :
    finishStatus s = respond
      (.valueStatus s.rdValR (statusByte s.statusR) (statusClass (latchStatusCode s)))
      (latchStatusCode s) := by
  rw [finishStatus, h, getByte_eq, ofByte?_byte]

/-- The state after the DATA0 read of `C_RD_DATA` (R158). -/
def dataValueRead (s : State) (d : Byte × Byte) (rs : List ReadAnswer) : State :=
  { s with
    ccsState := .rdData, cbReadRsp := rs, rdValR := be16 d.1 d.2
    trace := didRead s.cfg .data0 d :: s.trace }

theorem runRdData_ok {s : State} {d : Byte × Byte} {rs : List ReadAnswer}
    (h : s.cbReadRsp = .ok d.1 d.2 :: rs) : runRdData s = runRdStatus (dataValueRead s d rs) := by
  rw [runRdData, readReg_ok (by exact h)]; rfl

theorem runRdData_err {s : State} {rs : List ReadAnswer} (h : s.cbReadRsp = .err :: rs) :
    runRdData s = ended { s with cbReadRsp := rs } (.error .ctrlBusError)
      (readFailed s.cfg .data0 :: s.trace) := by
  rw [runRdData, readReg_err (by exact h)]; rfl

/-- The state after the STATUS read that gives a StatusCode (R125, R158). -/
def statusCodeRead (s : State) (q : Byte × Byte) (rs : List ReadAnswer) : State :=
  { s with cbReadRsp := rs, statusR := be16 q.1 q.2, scR := q.1 }

/-- A SET ends with the StatusCode of its last read (R170). -/
theorem runRdStatus_set {s : State} {p : Param} {q : Byte × Byte} {rs : List ReadAnswer}
    (ho : s.opR = getByte p + 1#8) (h : s.cbReadRsp = .ok q.1 q.2 :: rs) :
    runRdStatus s = ended (statusCodeRead s q rs)
      (.status q.1 (classOf s.cfg q.1)) (didRead s.cfg .status q :: s.trace) := by
  rw [runRdStatus_ok h, finishStatus_set (by exact ho), latchStatusCode, statusRead_statusR,
    statusByte_be16]
  rfl

/-- A GET ends with the value read before and the StatusCode of its last read (R170). -/
theorem runRdStatus_get {s : State} {p : Param} {q : Byte × Byte} {rs : List ReadAnswer}
    (ho : s.opR = getByte p) (h : s.cbReadRsp = .ok q.1 q.2 :: rs) :
    runRdStatus s = ended (statusCodeRead s q rs)
      (.valueStatus s.rdValR q.1 (classOf s.cfg q.1)) (didRead s.cfg .status q :: s.trace) := by
  rw [runRdStatus_ok h, finishStatus_get (by exact ho), latchStatusCode, statusRead_statusR,
    statusByte_be16]
  rfl

/-! ### A poll that ends ready -/

/-- With `k` reads counted before, the answers at hand take the poll loop through the busy reads
`busy`, the timer running out after each, to the ready read `r`, and leave the answers `rs` and `n`
expiries of the timer. The bound matters only to a busy read (R147, R148). -/
structure PollEnds (s : State) (k : Nat) (busy : List (Byte × Byte)) (r : Byte × Byte)
    (rs : List ReadAnswer) (n : Nat) : Prop where
  reads : s.cbReadRsp = answers busy ++ .ok r.1 r.2 :: rs
  busy_mem : ∀ b ∈ busy, Busy b
  ready : Ready r
  timer : s.timerRsp = busy.length + n
  allowed : busy ≠ [] → PollsAllowed s.cfg (k + busy.length)

section PollEnds

variable {s t : State} {k : Nat} {busy : List (Byte × Byte)} {r : Byte × Byte}
  {rs : List ReadAnswer} {n : Nat}

theorem PollEnds.congr (h : PollEnds s k busy r rs n) (hr : t.cbReadRsp = s.cbReadRsp)
    (ht : t.timerRsp = s.timerRsp) (hc : t.cfg = s.cfg) : PollEnds t k busy r rs n :=
  ⟨hr.trans h.reads, h.busy_mem, h.ready, ht.trans h.timer, hc ▸ h.allowed⟩

/-- A poll loop whose count starts from 0 (R158). -/
theorem PollEnds.of_allowed (hr : s.cbReadRsp = answers busy ++ .ok r.1 r.2 :: rs)
    (hb : ∀ b ∈ busy, Busy b) (hready : Ready r) (ht : s.timerRsp = busy.length + n)
    (hm : PollsAllowed s.cfg busy.length) : PollEnds s 0 busy r rs n :=
  ⟨hr, hb, hready, ht, fun _ => (Nat.zero_add busy.length).symm ▸ hm⟩

/-- The state after the ready read of a poll loop (R147, R158). -/
def pollDone (s : State) (busy : List (Byte × Byte)) (r : Byte × Byte) (rs : List ReadAnswer)
    (n : Nat) : State :=
  pollRead (polledBusy s busy (.ok r.1 r.2 :: rs) n) r rs

theorem PollEnds.run (h : PollEnds s s.pollCnt busy r rs n) :
    runPoll s = afterPoll (pollDone s busy r rs n) := by
  have hpolled : runPoll s = runPoll (polledBusy s busy (.ok r.1 r.2 :: rs) n) := by
    by_cases hbusy : busy = []
    · subst hbusy
      have hr : s.cbReadRsp = .ok r.1 r.2 :: rs := h.reads
      have ht : s.timerRsp = n := by simpa using h.timer
      rw [← hr, ← ht]; rfl
    · exact runPoll_polledBusy h.reads h.busy_mem h.timer (h.allowed hbusy)
  rw [hpolled, runPoll_ready (by exact rfl) h.ready, pollDone]

end PollEnds

/-! ### From acceptance to the end of the poll -/

theorem runWrLen_sent {s : State} {ws : List WriteAnswer} (h : s.cbWriteRsp = .ok :: .ok :: ws) :
    runWrLen s = runPoll (polling s [] ws) := by
  rw [runWrLen_ok h, runWrCmd, writeReg_ok (by exact rfl), onReply_ok]
  exact runPoll_ccsState (polling s [] ws) .wrCmd

theorem runExec_sent {s : State} {ws : List WriteAnswer}
    (h : s.cbWriteRsp = dataOk s.payR ++ .ok :: .ok :: ws) :
    runExec s = runPoll (polling s s.payR ws) := by
  rw [runExec_dataWritten h, runWrLen_sent (by exact rfl)]
  rfl

/-- A SET has sent its command (R170). -/
def setPolling (s : State) (p : Param) (v : Half) (ws : List WriteAnswer) : State :=
  polling (onCtrl (setLatched s p v)) (toBe16 v) ws

/-- A GET has sent its command (R170). -/
def getPolling (s : State) (p : Param) (ws : List WriteAnswer) : State :=
  polling (onCtrl (getLatched s p)) [] ws

theorem exec_setOp_sent {s : State} {p : Param} {v : Half} {ws : List WriteAnswer}
    (hi : s.opBusy = false) (hw : s.cbWriteRsp = .ok :: .ok :: .ok :: ws) :
    exec (setOp v p) s = .next (runPoll (setPolling s p v ws)) := by
  rw [exec_setOp_idle hi]
  exact congrArg _ (runExec_sent (s := onCtrl (setLatched s p v)) hw)

theorem exec_getOp_sent {s : State} {p : Param} {ws : List WriteAnswer}
    (hi : s.opBusy = false) (hw : s.cbWriteRsp = .ok :: .ok :: ws) :
    exec (getOp p) s = .next (runPoll (getPolling s p ws)) := by
  rw [exec_getOp_idle hi]
  exact congrArg _ (runWrLen_sent (s := onCtrl (getLatched s p)) hw)

/-- The poll of a SET ends ready, and the status is read next (R170). -/
theorem exec_setOp_ready {s : State} {p : Param} {v : Half} {ws : List WriteAnswer}
    {busy : List (Byte × Byte)} {r : Byte × Byte} {rs : List ReadAnswer} {n : Nat}
    (hi : s.opBusy = false) (hw : s.cbWriteRsp = .ok :: .ok :: .ok :: ws)
    (h : PollEnds s 0 busy r rs n) :
    exec (setOp v p) s = .next (runRdStatus (pollDone (setPolling s p v ws) busy r rs n)) := by
  have hrun : PollEnds (setPolling s p v ws) 0 busy r rs n := h.congr rfl rfl rfl
  rw [exec_setOp_sent hi hw, hrun.run, afterPoll_set (by exact rfl)]

/-- The poll of a GET ends ready, and DATA0 is read next (R170). -/
theorem exec_getOp_ready {s : State} {p : Param} {ws : List WriteAnswer}
    {busy : List (Byte × Byte)} {r : Byte × Byte} {rs : List ReadAnswer} {n : Nat}
    (hi : s.opBusy = false) (hw : s.cbWriteRsp = .ok :: .ok :: ws)
    (h : PollEnds s 0 busy r rs n) :
    exec (getOp p) s = .next (runRdData (pollDone (getPolling s p ws) busy r rs n)) := by
  have hrun : PollEnds (getPolling s p ws) 0 busy r rs n := h.congr rfl rfl rfl
  rw [exec_getOp_sent hi hw, hrun.run, afterPoll_get (by exact rfl)]

/-- A SET whose poll and status read are answered (R170). -/
theorem exec_setOp_ended {s : State} {p : Param} {v : Half} {ws : List WriteAnswer}
    {busy : List (Byte × Byte)} {r q : Byte × Byte} {rs : List ReadAnswer} {n : Nat}
    (hi : s.opBusy = false) (hw : s.cbWriteRsp = .ok :: .ok :: .ok :: ws)
    (h : PollEnds s 0 busy r (.ok q.1 q.2 :: rs) n) :
    let u := pollDone (setPolling s p v ws) busy r (.ok q.1 q.2 :: rs) n
    exec (setOp v p) s = .next (ended (statusCodeRead u q rs) (.status q.1 (classOf s.cfg q.1))
      (didRead s.cfg .status q :: u.trace)) := by
  intro u
  rw [exec_setOp_ready hi hw h, runRdStatus_set (by exact rfl) (by exact rfl)]
  rfl

/-- A GET whose poll, data read and status read are answered (R170). -/
theorem exec_getOp_ended {s : State} {p : Param} {ws : List WriteAnswer}
    {busy : List (Byte × Byte)} {r d q : Byte × Byte} {rs : List ReadAnswer} {n : Nat}
    (hi : s.opBusy = false) (hw : s.cbWriteRsp = .ok :: .ok :: ws)
    (h : PollEnds s 0 busy r (.ok d.1 d.2 :: .ok q.1 q.2 :: rs) n) :
    let u := pollDone (getPolling s p ws) busy r (.ok d.1 d.2 :: .ok q.1 q.2 :: rs) n
    exec (getOp p) s = .next (ended
      (statusCodeRead (dataValueRead u d (.ok q.1 q.2 :: rs)) q rs)
      (.valueStatus (be16 d.1 d.2) q.1 (classOf s.cfg q.1))
      (didRead s.cfg .status q :: didRead s.cfg .data0 d :: u.trace)) := by
  intro u
  rw [exec_getOp_ready hi hw h, runRdData_ok (by exact rfl),
    runRdStatus_get (by exact rfl) (by exact rfl)]
  rfl

/-- The poll loop's count starts from 0, and the last of the busy reads reaches the bound (R148). -/
theorem runPoll_bound_reached {s : State} {busy : List (Byte × Byte)} {r : Byte × Byte}
    {rs : List ReadAnswer} {n : Nat} (hk : s.pollCnt = 0) (hb : ∀ b ∈ busy, Busy b)
    (ht : s.timerRsp = busy.length + n) (hlast : Busy r)
    (hbound : s.cfg.maxPolls = some (busy.length + 1))
    (hr : s.cbReadRsp = answers (busy ++ [r]) ++ rs) :
    runPoll s = ended (pollDone s busy r rs n) (.error .deviceUnresponsive)
      (didRead s.cfg .status r :: polled s.cfg busy s.trace) := by
  have hallowed : PollsAllowed s.cfg (s.pollCnt + busy.length) := fun m hm => by
    rw [hbound] at hm; cases hm; omega
  have hcount : s.cfg.maxPolls = some (s.pollCnt + busy.length + 1) := by
    rw [hk, Nat.zero_add]; exact hbound
  rw [answers_concat] at hr
  rw [runPoll_polledBusy hr hb ht hallowed, runPoll_unresponsive (by exact rfl) hlast hcount]
  rfl

/-! ### The statements -/

/-- Settles O26: after the poll comes one status read, whose StatusCode is the answer. -/
theorem setOperationsComplete : Obligations.SetOperationsComplete := by
  unfold Obligations.SetOperationsComplete
  intro p v s busy r q ws rs n hi hw hr hb hready ht hm
  rw [exec_setOp_ended hi hw (.of_allowed hr hb hready ht hm)]
  simp [ended, statusCodeRead, pollDone, pollRead, polledBusy, setPolling, polling, onCtrl, setLatched, setSent]

/-- Settles O27: after the poll come the read of DATA0, which is the value, and the status read. -/
theorem getOperationsComplete : Obligations.GetOperationsComplete := by
  unfold Obligations.GetOperationsComplete
  intro p s busy r d q ws rs n hi hw hr hb hready ht hm
  rw [exec_getOp_ended hi hw (.of_allowed hr hb hready ht hm)]
  simp [ended, statusCodeRead, dataValueRead, pollDone, pollRead, polledBusy, getPolling, polling,
    onCtrl, getLatched, getSent]

/-- Settles O28: after a ready poll the next read fails; a busy read that reaches the bound ends the
operation in the poll. -/
theorem getAndSetAbortAfterThePoll : Obligations.GetAndSetAbortAfterThePoll := by
  unfold Obligations.GetAndSetAbortAfterThePoll
  intro p v s busy r d ws rs n hi hb ht sent asked
  refine ⟨fun hw hr hready hm => ?setStatus, fun hw hr hready hm => ?getData,
    fun hw hr hready hm => ?getStatus, fun hw hlast hbound hr => ?setBound,
    fun hw hlast hbound hr => ?getBound⟩
  case setStatus =>
    rw [exec_setOp_ready hi hw (.of_allowed hr hb hready ht hm), runRdStatus_err (by exact rfl)]
    exact ⟨_, rfl, ⟨rfl, rfl, rfl, rfl⟩, rfl, rfl, rfl⟩
  case getData =>
    rw [exec_getOp_ready hi hw (.of_allowed hr hb hready ht hm), runRdData_err (by exact rfl)]
    exact ⟨_, rfl, ⟨rfl, rfl, rfl, rfl⟩, rfl, rfl, rfl⟩
  case getStatus =>
    rw [exec_getOp_ready hi hw (.of_allowed hr hb hready ht hm), runRdData_ok (by exact rfl),
      runRdStatus_err (by exact rfl)]
    exact ⟨_, rfl, ⟨rfl, rfl, rfl, rfl⟩, rfl, rfl, rfl⟩
  case setBound =>
    rw [exec_setOp_sent hi hw,
      runPoll_bound_reached rfl hb (by exact ht) hlast (by exact hbound) (by exact hr)]
    exact ⟨_, rfl, ⟨rfl, rfl, rfl, rfl⟩, rfl, rfl, rfl⟩
  case getBound =>
    rw [exec_getOp_sent hi hw,
      runPoll_bound_reached rfl hb (by exact ht) hlast (by exact hbound) (by exact hr)]
    exact ⟨_, rfl, ⟨rfl, rfl, rfl, rfl⟩, rfl, rfl, rfl⟩

end Sys2Proof.Machine
end

section
/-! PROOF. SET and GET against the host sequences they stand for (R170, R171). A host sequence without
an error class tells which answers were at hand; from the same answers SET and GET make the same run. -/

namespace Sys2Proof.Machine

open Sys2Proof.Claims

/-! ### What a run that ends without an error class found at hand -/

/-- Where a transaction does not lead on: still in flight, or ended with the error class (R14). -/
def Stopped (e : ErrorClass) (t : State) : Prop := t.opBusy = true ∨ EndedWith e t

theorem not_stopped {e : ErrorClass} {t : State} (hi : t.opBusy = false) (he : ¬ EndedWith e t) :
    ¬ Stopped e t := by
  rintro (h | h)
  · rw [hi] at h; cases h
  · exact he h

theorem not_stopped_of_done {e : ErrorClass} {t : State} (hi : t.opBusy = false)
    (ht : t.trace.head? = some (.opResponse Result.done.word)) : ¬ Stopped e t := by
  refine not_stopped hi (not_endedWith_of_response ht ?_)
  rw [Result.word, mkResponse_rc]
  cases e <;> decide

section Reply

variable {reg : Reg} {s hold : State} {e : ErrorClass} (hh : hold.opBusy = true)
include hh

theorem stopped_or_written {payload : List Byte} {go : Unit → State → State} :
    Stopped e (onReply (writeReg reg payload s) hold e go) ∨ ∃ ws, s.cbWriteRsp = .ok :: ws := by
  cases h : s.cbWriteRsp with
  | nil => rw [writeReg_wait h]; exact .inl (.inl hh)
  | cons a ws =>
    cases a with
    | err => rw [writeReg_err h]; exact .inl (.inr rfl)
    | ok => exact .inr ⟨ws, rfl⟩

theorem stopped_or_read {go : Half → State → State} :
    Stopped e (onReply (readReg reg s) hold e go)
      ∨ ∃ (b : Byte × Byte) (rs : List ReadAnswer), s.cbReadRsp = .ok b.1 b.2 :: rs := by
  cases h : s.cbReadRsp with
  | nil => rw [readReg_wait h]; exact .inl (.inl hh)
  | cons a rs =>
    cases a with
    | err => rw [readReg_err h]; exact .inl (.inr rfl)
    | ok b0 b1 => exact .inr ⟨(b0, b1), rs, rfl⟩

end Reply

section InFlight

variable {s : State} (hs : s.opBusy = true)
include hs

theorem runRdStatus_stopped_or_read : Stopped .ctrlBusError (runRdStatus s)
    ∨ ∃ (b : Byte × Byte) (rs : List ReadAnswer), s.cbReadRsp = .ok b.1 b.2 :: rs :=
  stopped_or_read (s := { s with ccsState := .rdStatus }) (by exact hs)

theorem runRdReg_stopped_or_read : Stopped .ctrlBusError (runRdReg s)
    ∨ ∃ (b : Byte × Byte) (rs : List ReadAnswer), s.cbReadRsp = .ok b.1 b.2 :: rs :=
  stopped_or_read (s := { s with ccsState := .rdReg }) (by exact hs)

theorem runWrLen_stopped_or_sent :
    Stopped .ctrlBusError (runWrLen s) ∨ ∃ ws, s.cbWriteRsp = .ok :: .ok :: ws := by
  obtain h | ⟨ws, hw⟩ : Stopped .ctrlBusError (runWrLen s) ∨ ∃ ws, s.cbWriteRsp = .ok :: ws :=
    stopped_or_written (s := { s with ccsState := .wrLen }) (by exact hs)
  · exact .inl h
  rw [runWrLen_ok hw, hw]
  exact (stopped_or_written (by exact hs)).imp id fun ⟨ws', h⟩ => ⟨ws', congrArg (.ok :: ·) h⟩

theorem runExec_stopped_or_sent : Stopped .ctrlBusError (runExec s)
    ∨ ∃ ws, s.cbWriteRsp = dataOk s.payR ++ .ok :: .ok :: ws := by
  by_cases hp : s.payR = []
  · rw [runExec, if_pos hp, dataOk, if_pos hp]
    exact runWrLen_stopped_or_sent hs
  obtain h | ⟨ws, hw⟩ : Stopped .ctrlBusError (runExec s) ∨ ∃ ws, s.cbWriteRsp = .ok :: ws := by
    rw [runExec, if_neg hp]
    exact stopped_or_written (s := { s with ccsState := .wrData }) (by exact hs)
  · exact .inl h
  have hdata : s.cbWriteRsp = dataOk s.payR ++ ws := by rw [dataOk, if_neg hp]; exact hw
  rw [runExec_dataWritten hdata, hdata]
  exact (runWrLen_stopped_or_sent (s := dataWritten s ws) hs).imp id
    fun ⟨ws', h⟩ => ⟨ws', congrArg (dataOk s.payR ++ ·) h⟩

end InFlight

/-- One more busy read and its wait before a poll loop that ends (R147). -/
theorem PollEnds.cons {s : State} {b r : Byte × Byte} {busy : List (Byte × Byte)}
    {l rs : List ReadAnswer} {k n : Nat} (hr : s.cbReadRsp = .ok b.1 b.2 :: l) (hb : Busy b)
    (ht : s.timerRsp = k + 1) (hm : PollsAllowed s.cfg (s.pollCnt + 1))
    (h : PollEnds (polledBusy s [b] l k) (s.pollCnt + 1) busy r rs n) :
    PollEnds s s.pollCnt (b :: busy) r rs n where
  reads := by rw [hr, show l = _ from h.reads]; rfl
  busy_mem := List.forall_mem_cons.2 ⟨hb, h.busy_mem⟩
  ready := h.ready
  timer := by rw [ht, show k = _ from h.timer, List.length_cons, Nat.add_right_comm]
  allowed _ := by
    cases busy with
    | nil => exact hm
    | cons c busy =>
      have hlater : PollsAllowed s.cfg (s.pollCnt + 1 + (c :: busy).length) :=
        h.allowed (List.cons_ne_nil c busy)
      rwa [Nat.add_assoc, Nat.add_comm 1] at hlater

/-- The poll loop stops in flight or with an error class, or it ends with a ready read (R147, R148). -/
theorem runPoll_stopped_or_ends {s : State} (hs : s.opBusy = true) :
    (∃ e, Stopped e (runPoll s)) ∨ ∃ busy r rs n, PollEnds s s.pollCnt busy r rs n := by
  generalize hl : s.cbReadRsp = l
  induction l generalizing s with
  | nil => exact .inl ⟨.ctrlBusError, .inl (by rw [runPoll_unanswered hl]; exact hs)⟩
  | cons a l ih =>
    cases a with
    | err => exact .inl ⟨.ctrlBusError, .inr (by rw [runPoll_err hl]; rfl)⟩
    | ok b0 b1 =>
      by_cases hready : Ready (b0, b1)
      · exact .inr ⟨[], (b0, b1), l, s.timerRsp, hl, nofun, hready, (Nat.zero_add _).symm, nofun⟩
      have hbusy : Busy (b0, b1) := by simpa using hready
      by_cases hm : PollsAllowed s.cfg (s.pollCnt + 1)
      case neg =>
        refine .inl ⟨.deviceUnresponsive, .inr ?_⟩
        have hbound : pollBound (pollRead s (b0, b1) l) = true := by
          simpa using mt pollBound_eq_false_iff.1 hm
        rw [runPoll_of_read (b := (b0, b1)) hl, if_neg hready, if_pos hbound]
        rfl
      cases ht : s.timerRsp with
      | zero =>
        refine .inl ⟨.ctrlBusError, .inl ?_⟩
        rw [runPoll_busy (b := (b0, b1)) hl hbusy hm, pollWait_hold (by exact ht)]
        exact hs
      | succ k =>
        rw [runPoll_busy_expired (b := (b0, b1)) hl hbusy ht hm]
        exact (ih (s := polledBusy s [(b0, b1)] l k) hs rfl).imp id
          fun ⟨_, r, rs, n, h⟩ => ⟨_, r, rs, n, .cons hl hbusy ht hm h⟩

/-! ### The operations of the host sequences -/

/-- A GSTAT that ends without `CtrlBusError` found an answered read (R152). -/
theorem exec_gstat_answered {s t : State} (hi : s.opBusy = false) (h : exec .gstat s = .next t)
    (ht : t.opBusy = false) (he : ¬ EndedWith .ctrlBusError t) :
    ∃ (q : Byte × Byte) (rs : List ReadAnswer), s.cbReadRsp = .ok q.1 q.2 :: rs := by
  rw [exec_gstat_idle hi] at h
  cases h
  obtain ⟨b, rs, hr⟩ := (runRdStatus_stopped_or_read (by exact rfl)).resolve_left (not_stopped ht he)
  exact ⟨b, rs, hr⟩

/-- An RDREG that ends without `CtrlBusError` found an answered read (R142). -/
theorem exec_rdreg_answered {reg : Reg} {s t : State} (hi : s.opBusy = false)
    (h : exec (.rdreg reg) s = .next t) (ht : t.opBusy = false) (he : ¬ EndedWith .ctrlBusError t) :
    ∃ (d : Byte × Byte) (rs : List ReadAnswer), s.cbReadRsp = .ok d.1 d.2 :: rs := by
  rw [exec_rdreg_idle hi] at h
  cases h
  obtain ⟨b, rs, hr⟩ := (runRdReg_stopped_or_read (by exact rfl)).resolve_left (not_stopped ht he)
  exact ⟨b, rs, hr⟩

/-- EXEC has sent its command (R144 to R146). -/
def execPolling (s : State) (id len : Half) (payload : List Byte) (ws : List WriteAnswer) : State :=
  polling (onCtrl (execLatched s id len payload)) payload ws

/-- An EXEC that ends OK found its writes answered and its poll ended, and then it is known in full
(R144 to R149). -/
theorem exec_execute_done {id len : Half} {payload : List Byte} {s t : State}
    (hi : s.opBusy = false) (h : exec (.execute id len payload) s = .next t) (ht : t.opBusy = false)
    (hd : t.trace.head? = some (.opResponse Result.done.word)) :
    ∃ ws busy r rs n, s.cbWriteRsp = dataOk payload ++ .ok :: .ok :: ws
      ∧ PollEnds s 0 busy r rs n
      ∧ t = ended (pollDone (execPolling s id len payload ws) busy r rs n) .done
        (pollDone (execPolling s id len payload ws) busy r rs n).trace := by
  rw [exec_execute_idle hi] at h
  cases h
  obtain ⟨ws, hw⟩ := (runExec_stopped_or_sent (by exact rfl)).resolve_left
    (not_stopped_of_done ht hd)
  have hsent : runExec (onCtrl (execLatched s id len payload))
      = runPoll (execPolling s id len payload ws) := runExec_sent hw
  rw [hsent] at ht hd ⊢
  obtain ⟨busy, r, rs, n, hp⟩ := (runPoll_stopped_or_ends (by exact rfl)).resolve_left
    fun ⟨_, he⟩ => not_stopped_of_done ht hd he
  refine ⟨ws, busy, r, rs, n, hw, hp.congr rfl rfl rfl, ?_⟩
  rw [hp.run, afterPoll_execute (by exact rfl)]

/-! ### The bus activity of a trace -/

/-- A response is no bus activity. -/
theorem busOf_ended (s : State) (r : Result) (tr : List Event) :
    busOf (ended s r tr).trace = busOf tr := rfl

theorem busOf_didRead (c : Cfg) (r : Reg) (b : Byte × Byte) (tr : List Event) :
    busOf (didRead c r b :: tr) = didRead c r b :: busOf tr := rfl

/-! ### The statements -/

/-- Settles O29: the answers that take EXEC and GSTAT to their ends take SET to its end, through the
same transactions. -/
theorem setEqualsExecThenGstat : Obligations.SetEqualsExecThenGstat := by
  unfold Obligations.SetEqualsExecThenGstat
  intro p v s t u hi hexec ht hdone hgstat hu herr
  obtain ⟨ws, busy, r, rs, n, hw, hp, rfl⟩ := exec_execute_done hi hexec ht hdone
  obtain ⟨q, rs', hq⟩ := exec_gstat_answered ht hgstat hu herr
  obtain rfl : rs = .ok q.1 q.2 :: rs' := hq
  rw [(gstatResult _ rs' ht).1 q.1 q.2 rfl] at hgstat
  cases hgstat
  refine ⟨_, exec_setOp_ended hi hw hp, rfl, ?bus, rfl, rfl, rfl, rfl⟩
  simp only [busOf_ended, busOf_didRead]
  rfl

/-- Settles O30: the answers that take EXEC, RDREG and GSTAT to their ends take GET to its end, through
the same transactions. -/
theorem getEqualsExecRdregGstat : Obligations.GetEqualsExecRdregGstat := by
  unfold Obligations.GetEqualsExecRdregGstat
  intro p s t u w hi hexec ht hdone hrdreg hu hread hgstat hw herr
  obtain ⟨ws, busy, r, rs, n, hws, hp, rfl⟩ := exec_execute_done hi hexec ht hdone
  obtain ⟨d, rs', hd⟩ := exec_rdreg_answered ht hrdreg hu hread
  obtain rfl : rs = .ok d.1 d.2 :: rs' := hd
  rw [(rdregResult .data0 _ rs' ht).1 d.1 d.2 rfl] at hrdreg
  cases hrdreg
  obtain ⟨q, rs'', hq⟩ := exec_gstat_answered hu hgstat hw herr
  obtain rfl : rs' = .ok q.1 q.2 :: rs'' := hq
  rw [(gstatResult _ rs'' hu).1 q.1 q.2 rfl] at hgstat
  cases hgstat
  refine ⟨_, exec_getOp_ended hi hws hp, rfl, ?bus, rfl, rfl, rfl, rfl⟩
  simp only [busOf_ended, busOf_didRead]
  rfl

end Sys2Proof.Machine
end

section
/-! PROOF. The checksum engine (R203): its check values, and that it tells apart any two messages which
differ in one byte. -/

namespace Sys2Proof.Machine

/-! ### The steps of the engine are injective -/

/-- Every bit of a bit step: the shift, with the polynomial added when bit 15 falls out (R203). -/
theorem crcStep_getLsbD (c : Half) {i : Nat} (hi : i < 16) :
    (crcStep c).getLsbD i =
      ((decide (0 < i) && c.getLsbD (i - 1)) ^^ (c.getLsbD 15 && (0x1021#16).getLsbD i)) := by
  unfold crcStep
  split
  next h => rw [BitVec.getLsbD_xor, BitVec.getLsbD_shiftLeft, h]; grind
  next h => rw [BitVec.getLsbD_shiftLeft]; grind

/-- The polynomial has bit 0 set, so bit 0 of the result is the bit that fell out. -/
theorem crcStep_injective : Function.Injective crcStep := by
  intro c d h
  have bits : ∀ i < 16, (crcStep c).getLsbD i = (crcStep d).getLsbD i := fun i _ => by rw [h]
  have top : c.getLsbD 15 = d.getLsbD 15 := by
    have low := bits 0 (by omega)
    rw [crcStep_getLsbD c (by omega), crcStep_getLsbD d (by omega)] at low
    simpa using low
  refine BitVec.eq_of_getLsbD_eq fun i hi => ?_
  by_cases hi' : i = 15
  · rwa [hi']
  · have next := bits (i + 1) (by omega)
    rw [crcStep_getLsbD c (by omega), crcStep_getLsbD d (by omega), top] at next
    simpa using next

theorem crcSteps_injective (n : Nat) : Function.Injective (crcSteps n) := by
  induction n with
  | zero => exact Function.injective_id
  | succ n ih => exact ih.comp crcStep_injective

theorem crcByte_injective_left (b : Byte) : Function.Injective fun c => crcByte c b :=
  fun _ _ h => (BitVec.xor_left_inj _).1 (crcSteps_injective 8 h)

theorem crcByte_injective_right (c : Half) : Function.Injective (crcByte c) := by
  intro a b h
  have shifted := (BitVec.xor_right_inj _).1 (crcSteps_injective 8 h)
  refine BitVec.eq_of_getLsbD_eq fun i hi => ?_
  have bit := congrArg (fun v : Half => v.getLsbD (i + 8)) shifted
  simpa [hi, show i + 8 < 16 by omega, show i < 16 by omega] using bit

theorem foldl_crcByte_injective (m : List Byte) : Function.Injective fun c => m.foldl crcByte c := by
  induction m with
  | nil => exact Function.injective_id
  | cons b m ih => exact ih.comp (crcByte_injective_left b)

/-- A message with one byte changed has another CRC (the step of R207 that R203 gives). -/
theorem crc16_set_ne {m : List Byte} {k : Nat} {b : Byte} (hk : k < m.length)
    (hb : b ≠ m.getD k 0#8) : crc16 (m.set k b) ≠ crc16 m := by
  unfold crc16
  generalize 0x0000#16 = c
  induction m generalizing k c with
  | nil => simp at hk
  | cons a m ih =>
    cases k with
    | zero => exact (foldl_crcByte_injective m).ne ((crcByte_injective_right c).ne hb)
    | succ k => exact ih (Nat.lt_of_succ_lt_succ hk) hb (crcByte c a)

/-- Settles O12: the messages of at most nine bytes by evaluation, the runs of zeros by
`crc16_zeros`. -/
theorem crcCheckValues : Obligations.CrcCheckValues := by
  unfold Obligations.CrcCheckValues
  refine ⟨?digits, rfl, ?one, ?top, crc16_zeros⟩
  case digits => rw [crc16, ← crcFrom_eq]; decide
  case one => decide
  case top => decide

end Sys2Proof.Machine
end

section
/-! PROOF. The packet validator (R200 to R208): its three outcomes said once, and what a change of one
byte of a packet does to the marker test, to the masked copy and to the stored checksum. -/

namespace Sys2Proof.Machine

open Sys2Proof.Claims

/-! ### The outcomes -/

theorem marked_iff {p : List Byte} : marked p = true ↔ p.getD 0 0#8 &&& 0x0F#8 = 0x0F#8 :=
  beq_iff_eq

theorem marked_eq_false_iff {p : List Byte} :
    marked p = false ↔ p.getD 0 0#8 &&& 0x0F#8 ≠ 0x0F#8 :=
  beq_eq_false_iff_ne

/-- The marker test comes first (R201). -/
theorem validate_of_marked {p : List Byte} (h : marked p = true) : validate p = .discard .marked :=
  if_pos h

theorem validate_of_not_marked {p : List Byte} (h : marked p = false) :
    validate p = if crc16 (maskPacket p) = storedCrc p then .accept else .discard .checksum := by
  simp [validate, h]

theorem validate_eq_marked_iff {p : List Byte} :
    validate p = .discard .marked ↔ marked p = true := by
  refine ⟨fun h => ?_, validate_of_marked⟩
  by_contra hm
  rw [validate_of_not_marked (Bool.eq_false_of_not_eq_true hm)] at h
  split at h <;> cases h

theorem validate_eq_accept_iff {p : List Byte} :
    validate p = .accept ↔ marked p = false ∧ crc16 (maskPacket p) = storedCrc p := by
  cases h : marked p with
  | true => simp [validate_of_marked h]
  | false => simp [validate_of_not_marked h]

theorem validate_eq_checksum_iff {p : List Byte} :
    validate p = .discard .checksum ↔ marked p = false ∧ crc16 (maskPacket p) ≠ storedCrc p := by
  cases h : marked p with
  | true => simp [validate_of_marked h]
  | false => simp [validate_of_not_marked h]

/-! ### A packet with one byte changed -/

theorem getD_set_self {p : List Byte} {k : Nat} (h : k < p.length) (b : Byte) :
    (p.set k b).getD k 0#8 = b := by
  simp [h]

theorem getD_set_ne {k l : Nat} (h : k ≠ l) (p : List Byte) (b : Byte) :
    (p.set k b).getD l 0#8 = p.getD l 0#8 := by
  simp [h]

theorem marked_set_ne_zero {k : Nat} (h : k ≠ 0) (p : List Byte) (b : Byte) :
    marked (p.set k b) = marked p := by
  rw [marked, getD_set_ne h, marked]

/-- The checksum field is read from bytes 2 and 3 alone (R204). -/
theorem storedCrc_set_of_ne {k : Nat} (h2 : k ≠ 2) (h3 : k ≠ 3) (p : List Byte) (b : Byte) :
    storedCrc (p.set k b) = storedCrc p := by
  rw [storedCrc, getD_set_ne h2, getD_set_ne h3, storedCrc]

theorem storedCrc_set_ne {p : List Byte} {k : Nat} {b : Byte} (hk : k = 2 ∨ k = 3)
    (hl : k < p.length) (hb : b ≠ p.getD k 0#8) : storedCrc (p.set k b) ≠ storedCrc p := by
  intro h
  have bytes := congrArg toBe16 h
  simp only [storedCrc, toBe16_be16, List.cons.injEq, and_true] at bytes
  obtain ⟨high, low⟩ := bytes
  rcases hk with rfl | rfl
  · exact hb (by rwa [getD_set_self hl] at high)
  · exact hb (by rwa [getD_set_self hl] at low)

/-- The masked copy does not depend on the checksum field (R200). -/
theorem maskPacket_set_checksum {k : Nat} (hk : k = 2 ∨ k = 3) (p : List Byte) (b : Byte) :
    maskPacket (p.set k b) = maskPacket p := by
  rcases hk with rfl | rfl
  · rw [maskPacket, getD_set_ne (by decide), List.set_comm b _ (by decide), List.set_set, maskPacket]
  · rw [maskPacket, getD_set_ne (by decide), List.set_comm b _ (by decide),
      List.set_comm b _ (by decide), List.set_set, maskPacket]

/-- Outside byte 0 and the checksum field the masked copy is the packet (R200). -/
theorem maskPacket_set_of_ne {k : Nat} (h0 : k ≠ 0) (h2 : k ≠ 2) (h3 : k ≠ 3) (p : List Byte)
    (b : Byte) : maskPacket (p.set k b) = (maskPacket p).set k b := by
  rw [maskPacket, getD_set_ne h0, List.set_comm b _ h0, List.set_comm b _ h2, List.set_comm b _ h3,
    maskPacket]

/-- The masked copy keeps the low nibble of byte 0 (R200). -/
theorem maskPacket_set_zero {p : List Byte} (hp : 0 < p.length) (b : Byte) :
    maskPacket (p.set 0 b) = (maskPacket p).set 0 (b &&& 0x0F#8) := by
  simp only [maskPacket, getD_set_self hp, List.set_set]
  rw [List.set_comm _ _ (by decide : 3 ≠ 0), List.set_comm _ _ (by decide : 2 ≠ 0), List.set_set]

theorem maskPacket_length (p : List Byte) : (maskPacket p).length = p.length := by
  simp [maskPacket]

theorem maskPacket_getD_zero {p : List Byte} (hp : 0 < p.length) :
    (maskPacket p).getD 0 0#8 = p.getD 0 0#8 &&& 0x0F#8 := by
  rw [maskPacket, getD_set_ne (by decide), getD_set_ne (by decide), getD_set_self hp]

theorem maskPacket_getD_of_ne {k : Nat} (h0 : k ≠ 0) (h2 : k ≠ 2) (h3 : k ≠ 3) (p : List Byte) :
    (maskPacket p).getD k 0#8 = p.getD k 0#8 := by
  rw [maskPacket, getD_set_ne h3.symm, getD_set_ne h2.symm, getD_set_ne h0.symm]

/-! ### The marker test and the top nibble of byte 0 -/

theorem lowNibble_getLsbD : ∀ i < 8, (0x0F#8).getLsbD i = decide (i < 4) := by decide

/-- Two bytes have the same low nibble iff they agree in bits 3:0. -/
theorem and_lowNibble_eq_iff {a b : Byte} :
    a &&& 0x0F#8 = b &&& 0x0F#8 ↔ ∀ i < 4, a.getLsbD i = b.getLsbD i := by
  constructor
  · intro h i hi
    have bit := congrArg (fun v : Byte => v.getLsbD i) h
    simpa [lowNibble_getLsbD i (by omega), hi] using bit
  · intro h
    refine BitVec.eq_of_getLsbD_eq fun i hi8 => ?_
    by_cases hi : i < 4
    · simp [h i hi]
    · simp [lowNibble_getLsbD i hi8, hi]

/-- Bits 11:8 of the identifier are the low nibble of byte 0 (R63, R201). -/
theorem lineId_and_marker (p : List Byte) :
    lineId p &&& 0x0F00#16 = (p.getD 0 0#8 &&& 0x0F#8) ++ 0x00#8 := by
  rw [lineId, be16, show 0x0F00#16 = 0x0F#8 ++ 0x00#8 from rfl, BitVec.and_append, BitVec.and_zero]

/-- Settles O13: the marker test is the validator's first, and the identifier's bits 11:8 are the low
nibble of byte 0. -/
theorem markerTestIsOnByteZeroAlone : Obligations.MarkerTestIsOnByteZeroAlone := by
  unfold Obligations.MarkerTestIsOnByteZeroAlone
  have onByteZero (p : List Byte) := validate_eq_marked_iff.trans (marked_iff (p := p))
  refine ⟨onByteZero, fun p => (onByteZero p).trans ?_⟩
  rw [lineId_and_marker, show 0x0F00#16 = 0x0F#8 ++ 0x00#8 from rfl, BitVec.append_left_inj]

/-- Only the low nibble of byte 0 reaches the outcome (R205). -/
theorem validate_set_zero {p : List Byte} (hp : 0 < p.length) {b : Byte}
    (hb : b &&& 0x0F#8 = p.getD 0 0#8 &&& 0x0F#8) : validate (p.set 0 b) = validate p := by
  have hmark : marked (p.set 0 b) = marked p := by rw [marked, getD_set_self hp, hb, marked]
  have hmask : maskPacket (p.set 0 b) = maskPacket p := by
    rw [maskPacket, getD_set_self hp, hb, List.set_set, maskPacket]
  rw [validate, hmark, hmask, storedCrc_set_of_ne (by decide) (by decide), validate]

/-- Settles O14: the shifted nibble has no bit in the low half of the byte. -/
theorem topNibbleIsExcluded : Obligations.TopNibbleIsExcluded := by
  unfold Obligations.TopNibbleIsExcluded
  intro p t hp
  refine validate_set_zero (by omega) ?_
  refine and_lowNibble_eq_iff.2 fun i hi => ?_
  simp [lowNibble_getLsbD i (by omega), hi]

/-! ### The checksum field -/

/-- Whatever its checksum field holds, an unmarked packet is accepted iff that is the computed CRC
(R206). -/
theorem validate_withChecksum_eq_accept_iff {p : List Byte} (hp : 3 < p.length)
    (hm : marked p = false) (v : Half) :
    validate (withChecksum p v) = .accept ↔ crc16 (maskPacket p) = v := by
  have hmark : marked (withChecksum p v) = false := by
    rw [withChecksum, marked_set_ne_zero (by decide), marked_set_ne_zero (by decide), hm]
  have hmask : maskPacket (withChecksum p v) = maskPacket p := by
    rw [withChecksum, maskPacket_set_checksum (.inr rfl), maskPacket_set_checksum (.inl rfl)]
  have hstored : storedCrc (withChecksum p v) = v := by
    rw [storedCrc, withChecksum, getD_set_ne (by decide), getD_set_self (by omega),
      getD_set_self (by rw [List.length_set]; omega), be16_toBe16]
  rw [validate_eq_accept_iff, hmark, hmask, hstored]
  exact and_iff_right rfl

/-- Settles O15: the accepted value is the computed CRC and no other. -/
theorem exactlyOneChecksumIsAccepted : Obligations.ExactlyOneChecksumIsAccepted := by
  unfold Obligations.ExactlyOneChecksumIsAccepted
  intro p hp hm
  have accepts := validate_withChecksum_eq_accept_iff (p := p) (by omega) (marked_eq_false_iff.2 hm)
  exact ⟨(accepts _).2 rfl, _, (accepts _).2 rfl, fun v hv => ((accepts v).1 hv).symm⟩

/-! ### Single bit errors -/

/-- A changed byte of the checksum field is detected (R207). -/
theorem validate_set_checksum {p : List Byte} {k : Nat} {b : Byte} (ha : validate p = .accept)
    (hk : k = 2 ∨ k = 3) (hl : k < p.length) (hb : b ≠ p.getD k 0#8) :
    validate (p.set k b) = .discard .checksum := by
  obtain ⟨hm, hc⟩ := validate_eq_accept_iff.1 ha
  refine validate_eq_checksum_iff.2 ⟨?_, ?_⟩
  · rwa [marked_set_ne_zero (by omega)]
  · rw [maskPacket_set_checksum hk, hc]
    exact (storedCrc_set_ne hk hl hb).symm

/-- A changed byte of the masked copy outside the checksum field is detected (R207). -/
theorem validate_set_of_maskPacket {p : List Byte} {k : Nat} {b b' : Byte}
    (ha : validate p = .accept) (hm : marked (p.set k b) = false) (h2 : k ≠ 2) (h3 : k ≠ 3)
    (hl : k < p.length) (hmask : maskPacket (p.set k b) = (maskPacket p).set k b')
    (hb : b' ≠ (maskPacket p).getD k 0#8) : validate (p.set k b) = .discard .checksum := by
  obtain ⟨-, hc⟩ := validate_eq_accept_iff.1 ha
  refine validate_eq_checksum_iff.2 ⟨hm, ?_⟩
  rw [hmask, storedCrc_set_of_ne h2 h3, ← hc]
  exact crc16_set_ne (by rwa [maskPacket_length]) hb

/-- A changed low nibble of byte 0 that is not the marker is detected (R207). -/
theorem validate_set_lowNibble {p : List Byte} {b : Byte} (ha : validate p = .accept)
    (hp : 0 < p.length) (hm : b &&& 0x0F#8 ≠ 0x0F#8)
    (hb : b &&& 0x0F#8 ≠ p.getD 0 0#8 &&& 0x0F#8) : validate (p.set 0 b) = .discard .checksum :=
  validate_set_of_maskPacket ha (marked_eq_false_iff.2 (by rwa [getD_set_self hp])) (by decide)
    (by decide) hp (maskPacket_set_zero hp b) (by rwa [maskPacket_getD_zero hp])

/-- A changed byte of the rest of the packet is detected (R207). -/
theorem validate_set_of_ne {p : List Byte} {k : Nat} {b : Byte} (ha : validate p = .accept)
    (h0 : k ≠ 0) (h2 : k ≠ 2) (h3 : k ≠ 3) (hl : k < p.length) (hb : b ≠ p.getD k 0#8) :
    validate (p.set k b) = .discard .checksum :=
  validate_set_of_maskPacket ha
    (by rw [marked_set_ne_zero h0]; exact (validate_eq_accept_iff.1 ha).1) h2 h3 hl
    (maskPacket_set_of_ne h0 h2 h3 p b) (by rwa [maskPacket_getD_of_ne h0 h2 h3])

/-- A flip of bit `j` of a byte changes that bit and no other. -/
theorem flip_getLsbD (b : Byte) {i : Nat} (j : Nat) (hi : i < 8) :
    (b ^^^ (1#8 <<< j)).getLsbD i = (b.getLsbD i ^^ decide (i = j)) := by
  rw [BitVec.getLsbD_xor, BitVec.getLsbD_shiftLeft, BitVec.getLsbD_one]
  grind

theorem flip_ne (b : Byte) {j : Nat} (hj : j < 8) : b ^^^ (1#8 <<< j) ≠ b := by
  intro h
  have bit := flip_getLsbD b j hj
  rw [h] at bit
  simp at bit

/-- A flip leaves the low nibble as it is iff the bit is above it. -/
theorem flip_lowNibble_eq_iff (b : Byte) (j : Nat) :
    (b ^^^ (1#8 <<< j)) &&& 0x0F#8 = b &&& 0x0F#8 ↔ 4 ≤ j := by
  rw [and_lowNibble_eq_iff]
  constructor
  · intro h
    by_contra hj
    have bit := h j (by omega)
    rw [flip_getLsbD b j (by omega)] at bit
    simp at bit
  · intro hj i hi
    rw [flip_getLsbD b j (by omega), decide_eq_false (by omega), Bool.xor_false]

/-- Settles O16: each flip changes a byte of the masked copy, which changes the CRC, or a byte of the
checksum field, or nothing that the validator reads. -/
theorem singleBitFlipsAreDetected : Obligations.SingleBitFlipsAreDetected := by
  unfold Obligations.SingleBitFlipsAreDetected
  intro p k j hp ha hk hj
  have hl : k < p.length := by omega
  have hb := flip_ne (p.getD k 0#8) hj
  refine ⟨?top, ?checksum, ?marked, ?low, ?rest⟩
  case top =>
    rintro rfl h4
    exact (validate_set_zero hl ((flip_lowNibble_eq_iff _ j).2 h4)).trans ha
  case checksum => exact fun h => validate_set_checksum ha h hl hb
  case marked => exact fun _ _ hm => validate_of_marked (marked_iff.2 hm)
  case low =>
    rintro rfl h4 hm
    rw [flipBit, getD_set_self hl] at hm
    exact validate_set_lowNibble ha hl hm (mt (flip_lowNibble_eq_iff _ j).1 (by omega))
  case rest =>
    exact fun h => validate_set_of_ne ha (by omega) (by omega) (by omega) hl hb

/-! ### Packets of one repeated byte -/

/-- Any number of zero bytes is its own masked copy and carries the CRC zero (R208). -/
theorem validate_zeros (n : Nat) : validate (List.replicate n 0x00#8) = .accept := by
  have byte (k : Nat) : (List.replicate n 0x00#8).getD k 0#8 = 0#8 := by simp
  have hmask : maskPacket (List.replicate n 0x00#8) = List.replicate n 0x00#8 := by
    rw [maskPacket, byte, BitVec.zero_and]
    simp only [List.set_replicate_self]
  refine validate_eq_accept_iff.2 ⟨?unmarked, ?checksum⟩
  case unmarked => rw [marked, byte]; rfl
  case checksum => rw [hmask, crc16_zeros, storedCrc, byte, byte]; rfl

/-- Settles O17: zeros have the CRC zero, and a byte `0xFF` has the marker in its low nibble. -/
theorem allZeroAcceptedAllOnesMarked : Obligations.AllZeroAcceptedAllOnesMarked := by
  unfold Obligations.AllZeroAcceptedAllOnesMarked
  exact ⟨validate_zeros 164, by decide, validate_of_marked (by decide)⟩

end Sys2Proof.Machine
end

section
/-! PROOF. The four operations without a channel (R210, R232, R254, R257): what PVAL answers, and the
part of the state that the four of them leave alone. -/

namespace Sys2Proof.Machine

theorem opLatch_pval (packet : List Byte) (s : State) :
    opLatch (.pval packet) s = latchValidation packet s := rfl

theorem exec_pval_idle {s : State} (h : s.opBusy = false) (packet : List Byte) :
    exec (.pval packet) s = .next (respond (.verdict (validate packet))
      (latchValidation packet (accept .pval s))) :=
  exec_idle h fun hi => nomatch hi

/-- Settles O32: a marked packet reaches neither the copy nor the CRC; any other is compared. -/
theorem pvalResult : Obligations.PvalResult := by
  unfold Obligations.PvalResult
  intro packet s hi
  rw [exec_pval_idle hi]
  constructor
  · intro h
    have hm := marked_iff.2 h
    rw [validate_of_marked hm, latchValidation_eq, hm]
    rfl
  · intro h
    have hm := marked_eq_false_iff.2 h
    rw [validate_of_not_marked hm, latchValidation_eq, hm]
    rfl

/-- What ARMTRIG, WAITTRIG, PVAL and RDFRAME can write: the trace, the OP agent's own registers, and
each its trigger flag or the validator's latches (R210, R232, R254, R257). -/
theorem exec_local {i : Instr} {s t : State} (hc : chanOf i.opcode = .none)
    (h : exec i s = .next t) :
    ∃ busy chan ccs fa op armed pending crc copy tr,
      t = { s with
        opBusy := busy, chanSel := chan, ccsState := ccs, faState := fa, opR := op
        trigArmed := armed, trigPending := pending, crcR := crc, scratch := copy, trace := tr }
      ∧ (i ≠ .armtrig → armed = s.trigArmed)
      ∧ (i ≠ .waittrig → pending = s.trigPending)
      ∧ ((∀ p, i ≠ .pval p) → crc = s.crcR ∧ copy = s.scratch)
      ∧ (∀ k, i = .rdframe k → busy = s.opBusy ∧ chan = s.chanSel ∧ ccs = s.ccsState
        ∧ fa = s.faState ∧ op = s.opR) := by
  rcases exec_cases h with rfl | ⟨-, k, w, data, rfl⟩ | ⟨-, hi, rfl⟩
  · exact ⟨_, _, _, _, _, _, _, _, _, _, rfl, by simp⟩
  · exact ⟨_, _, _, _, _, _, _, _, _, _, rfl, by simp⟩
  cases i with
  | armtrig =>
    exact ⟨_, _, _, _, _, true, s.trigPending, s.crcR, s.scratch, _, rfl, by simp⟩
  | pval p =>
    rw [opLatch_pval, latchValidation_eq]
    exact ⟨_, _, _, _, _, s.trigArmed, s.trigPending, _, _, _, rfl, by simp⟩
  | waittrig =>
    rcases runWait_cases (accept .waittrig s) with hw | hw
    · exact ⟨_, _, _, _, _, s.trigArmed, s.trigPending, s.crcR, s.scratch, _, hw, by simp⟩
    · exact ⟨_, _, _, _, _, s.trigArmed, false, s.crcR, s.scratch, _, hw, by simp⟩
  | rdframe k => exact absurd rfl hi
  | _ => cases hc

/-- Settles O45: whatever `exec_local` does not list is as before. -/
theorem localOperationsFrame : Obligations.LocalOperationsFrame := by
  unfold Obligations.LocalOperationsFrame
  intro i s t hc h
  obtain ⟨busy, chan, ccs, fa, op, armed, pending, crc, copy, tr, rfl, harm, hpend, hcrc, hrd⟩ :=
    exec_local hc h
  exact ⟨⟨rfl, rfl, rfl, rfl, rfl⟩, fun _ => ⟨rfl, rfl⟩, rfl, rfl, rfl, rfl, rfl, rfl, rfl, rfl, rfl,
    rfl, rfl, rfl, rfl, rfl, rfl, rfl, rfl, rfl, rfl, rfl, harm, hpend, hcrc, hrd⟩

end Sys2Proof.Machine
end

section
/-! PROOF. What CAPTURE and RDFRAME answer (R220 to R232): the synchronisation loop over the attempts
that start no frame, the two reads that fill `asm_buf`, and the validation in index order. -/

namespace Sys2Proof.Machine

open Sys2Proof.Claims

/-! ### RDFRAME -/

/-- Taking a free lock and letting it go leaves the state as it was (R72). -/
theorem unlock_lock {s : State} (h : s.fbLock = false) : unlock (lock s) = s := by
  cases s
  simp_all [unlock, lock]

/-- With the lock free RDFRAME sends one response, and `fb_valid` decides which (R232). -/
theorem exec_rdframe_free {s : State} (h : s.fbLock = false) (k : Nat) :
    exec (.rdframe k) s = .next (if s.fbValid then
      emit (.frameResponse k Result.frame.word (s.fb.readBlock 0 frameBytes)) s
    else emit (.frameResponse k Result.empty.word []) s) := by
  simp [exec, execRdframe, h, unlock_lock h]

/-- Settles O37: the one response is all that RDFRAME leaves behind, with `fb_valid` at 1 and at 0. -/
theorem rdframeResult : Obligations.RdframeResult := by
  unfold Obligations.RdframeResult
  intro k s hl
  rw [exec_rdframe_free hl]
  constructor
  · intro hv
    rw [if_pos hv]
    rfl
  · intro hv
    rw [if_neg (by simp [hv])]
    rfl

/-! ### The synchronisation loop -/

/-- The bound is not reached exactly when one more attempt may be made (R223). -/
theorem syncBound_eq_false_iff {s : State} :
    syncBound s = false ↔ AttemptsAllowed s.cfg s.syncCnt := by
  unfold syncBound
  cases h : s.cfg.maxSyncAttempts <;> simp [AttemptsAllowed, h]

/-- The synchronisation step after the attempts `as`, with the answers `ds` and the bytes `bs` left:
they are counted and recorded, and neither buffer has changed (R221). -/
def afterAttempts (s : State) (as : List Attempt) (ds : List DataAnswer) (bs : List Byte) : State :=
  { s with
    faState := .sync, syncCnt := s.syncCnt + as.length, dbRsp := ds, stream := bs
    trace := attempted as s.trace }

theorem afterAttempts_cons (s : State) (a : Attempt) (as : List Attempt) (ds ds' : List DataAnswer)
    (bs bs' : List Byte) :
    afterAttempts (afterAttempts s [a] ds' bs') as ds bs = afterAttempts s (a :: as) ds bs := by
  simp [afterAttempts, attempted, Nat.add_assoc, Nat.add_comm 1]

/-- Below the bound a failed read is retried and a block with another identifier is dropped (R221,
R222). -/
theorem runSync_attempt {s : State} {a : Attempt} {ds : List DataAnswer} {bs : List Byte}
    (hd : s.dbRsp = a.answer :: ds) (hb : s.stream = a.bytes ++ bs) (ha : a.valid = true)
    (hn : AttemptsAllowed s.cfg s.syncCnt) : runSync s = runSync (afterAttempts s [a] ds bs) := by
  rw [runSync_eq, if_neg (by simp [syncBound_eq_false_iff.2 hn])]
  cases a with
  | failed consumed =>
    rw [dataRead_err (by exact hd) (by simp [hb, Attempt.bytes])]
    simp [hb, Attempt.bytes, afterAttempts, attempted, Attempt.event, packetBytes]
  | skipped block =>
    obtain ⟨hl, hid⟩ : block.length = packetBytes ∧ lineId block ≠ 0#16 := by
      simpa [Attempt.valid] using ha
    rw [dataRead_ok (by exact hd) (by simp [hb, Attempt.bytes, hl])]
    simp [hb, Attempt.bytes, hl.symm, hid, afterAttempts, attempted, Attempt.event]

/-- Any number of attempts that the bound allows (R221, R223). -/
theorem runSync_attempts {s : State} {as : List Attempt} {ds : List DataAnswer} {bs : List Byte}
    (hd : s.dbRsp = as.map Attempt.answer ++ ds) (hb : s.stream = as.flatMap Attempt.bytes ++ bs)
    (ha : ∀ a ∈ as, a.valid = true)
    (hn : ∀ m, s.cfg.maxSyncAttempts = some m → s.syncCnt + as.length ≤ m) :
    runSync s = runSync (afterAttempts s as ds bs) := by
  induction as generalizing s with
  | nil =>
    have here : afterAttempts s [] ds bs = { s with faState := .sync } := by
      cases s
      simp_all [afterAttempts, attempted]
    rw [here, runSync_entered]
  | cons a as ih =>
    rw [List.map_cons, List.cons_append] at hd
    rw [List.flatMap_cons, List.append_assoc] at hb
    have below : AttemptsAllowed s.cfg s.syncCnt := fun m hm =>
      (Nat.lt_add_of_pos_right (Nat.succ_pos as.length)).trans_le (hn m hm)
    rw [runSync_attempt hd hb (ha a List.mem_cons_self) below,
      ih (s := afterAttempts s [a] _ _) rfl rfl (fun b hb => ha b (List.mem_cons_of_mem a hb))
        fun m hm => (Nat.add_right_comm s.syncCnt 1 as.length).trans_le (hn m hm),
      afterAttempts_cons]

/-- The bound reached: no further read (R223). -/
theorem runSync_exhausted {s : State} (h : s.cfg.maxSyncAttempts = some s.syncCnt) :
    runSync s = raise .syncExhausted s := by
  rw [runSync_eq, if_pos (by simp [syncBound, h])]

/-- Below the bound an unanswered read holds (R230). -/
theorem runSync_unanswered {s : State} (hn : AttemptsAllowed s.cfg s.syncCnt) (hd : s.dbRsp = []) :
    runSync s = { s with faState := .sync } := by
  rw [runSync_eq, if_neg (by simp [syncBound_eq_false_iff.2 hn]), dataRead_wait (by exact hd)]

/-- A block with identifier 0 is stored at offset 0, and the bulk step begins (R222). -/
theorem runSync_found {s : State} {first : List Byte} {ds : List DataAnswer} {bs : List Byte}
    (hn : AttemptsAllowed s.cfg s.syncCnt) (hd : s.dbRsp = .ok :: ds) (hb : s.stream = first ++ bs)
    (hl : first.length = packetBytes) (hid : lineId first = 0#16) :
    runSync s = runBulk { s with
      faState := .sync, syncCnt := s.syncCnt + 1, asmBuf := s.asmBuf.writeBlock 0 first, dbRsp := ds
      stream := bs, trace := .dataRead packetBytes true :: s.trace } := by
  rw [runSync_eq, if_neg (by simp [syncBound_eq_false_iff.2 hn]),
    dataRead_ok (by exact hd) (by simp [hb, hl])]
  simp [hb, hl.symm, hid]

/-- CAPTURE once the attempts `as` and the block `first` have been read (R220 to R222). -/
def lineZeroFound (s : State) (as : List Attempt) (first : List Byte) (ds : List DataAnswer)
    (bs : List Byte) : State :=
  { captureBegun s with
    faState := .sync, syncCnt := as.length + 1, asmBuf := s.asmBuf.writeBlock 0 first, dbRsp := ds
    stream := bs, trace := .dataRead packetBytes true :: attempted as s.trace }

theorem exec_capture_idle {s : State} (h : s.opBusy = false) :
    exec .capture s = .next (runSync (captureBegun s)) :=
  exec_idle h nofun

/-- CAPTURE goes on from the attempts the bound allows. -/
theorem exec_capture_attempts {s : State} {as : List Attempt} {ds : List DataAnswer} {bs : List Byte}
    (hi : s.opBusy = false) (hd : s.dbRsp = as.map Attempt.answer ++ ds)
    (hb : s.stream = as.flatMap Attempt.bytes ++ bs) (ha : ∀ a ∈ as, a.valid = true)
    (hn : ∀ m, s.cfg.maxSyncAttempts = some m → as.length ≤ m) :
    exec .capture s = .next (runSync (afterAttempts (captureBegun s) as ds bs)) := by
  rw [exec_capture_idle hi, runSync_attempts (s := captureBegun s) hd hb ha fun m hm => by
    simpa using hn m hm]

/-- CAPTURE reaches the bulk step when a block with identifier 0 comes below the bound. -/
theorem exec_capture_found {s : State} {as : List Attempt} {first : List Byte} {ds : List DataAnswer}
    {bs : List Byte} (h : FindsLineZero s as first ds bs) :
    exec .capture s = .next (runBulk (lineZeroFound s as first ds bs)) := by
  obtain ⟨hi, hd, hb, ha, hn, hl, hid⟩ := h
  rw [List.append_assoc] at hb
  rw [exec_capture_attempts hi hd hb ha fun m hm => (hn m hm).le,
    runSync_found (by simpa [afterAttempts] using hn) rfl rfl hl hid]
  simp [afterAttempts, lineZeroFound]

/-- Settles O36: the loop makes all the attempts; then it finds the bound reached, or with no bound a
read that is not answered. -/
theorem syncBoundDecidesTheLoop : Obligations.SyncBoundDecidesTheLoop := by
  unfold Obligations.SyncBoundDecidesTheLoop
  intro s as ds bs hi hd hb ha
  constructor
  · intro hm
    refine ⟨raise .syncExhausted (afterAttempts (captureBegun s) as ds bs), ?exhausted,
      respond_idle _ _, rfl, rfl, rfl, Nat.zero_add _, rfl, rfl, rfl⟩
    rw [exec_capture_attempts hi hd hb ha fun m h => (Option.some.inj (hm.symm.trans h)).le,
      runSync_exhausted (by simpa [afterAttempts] using hm)]
  · rintro hm rfl
    refine ⟨afterAttempts (captureBegun s) as [] bs, ?waiting, rfl, rfl, rfl, rfl, rfl,
      Nat.zero_add _, rfl⟩
    rw [exec_capture_attempts hi hd hb ha (fun m h => nomatch hm.symm.trans h),
      runSync_unanswered (s := afterAttempts (captureBegun s) as [] bs)
        (fun m h => nomatch hm.symm.trans h) rfl]
    rfl

/-! ### The frame in `asm_buf` -/

/-- A buffer into which both reads of a capture have been stored (R222, R224). -/
def storedFrame (m : Memory) (first bulk : List Byte) : Memory :=
  (m.writeBlock 0 first).writeBlock packetBytes bulk

section
variable {m : Memory} {first bulk : List Byte}

theorem storedFrame_wf (hm : m.wf) (hf : first.length = 164) (hb : bulk.length = 9676) :
    (storedFrame m first bulk).wf :=
  Memory.wf_writeBlock (Memory.wf_writeBlock hm (by simp [hf, frameBytes]))
    (by simp [hb, packetBytes, frameBytes])

/-- The two reads lie one after the other and fill the frame (R36). -/
theorem read_storedFrame (hf : first.length = 164) (hb : bulk.length = 9676) {a : Nat}
    (ha : a < 9840) : (storedFrame m first bulk).read a = (first ++ bulk).getD a 0#8 := by
  rw [storedFrame, Memory.read_writeBlock, Memory.read_writeBlock, show packetBytes = 164 from rfl]
  by_cases h : a < 164
  · rw [if_neg (by omega), if_pos (by omega), Nat.sub_zero, List.getD_append _ _ _ _ (by omega)]
  · rw [if_pos (by omega), List.getD_append_right _ _ _ _ (by omega), hf]

theorem readBlock_storedFrame (hm : m.wf) (hf : first.length = 164) (hb : bulk.length = 9676) :
    (storedFrame m first bulk).readBlock 0 9840 = first ++ bulk :=
  Memory.readBlock_ext (storedFrame_wf hm hf hb) (by simp [hf, hb]) fun i hi => by
    rw [Nat.zero_add, read_storedFrame hf hb hi]

/-- The packets of the stored frame are those of the bytes received (R64). -/
theorem packet_storedFrame (hm : m.wf) (hf : first.length = 164) (hb : bulk.length = 9676) {i : Nat}
    (hi : i < 60) : (storedFrame m first bulk).packet i = packetOf (first ++ bulk) i := by
  have hlen : (packetOf (first ++ bulk) i).length = packetBytes := by
    simp [packetOf, hf, hb]
    omega
  refine Memory.readBlock_ext (storedFrame_wf hm hf hb) hlen fun j hj => ?_
  rw [show packetBytes = 164 from rfl] at hj ⊢
  rw [read_storedFrame hf hb (by omega)]
  simp [packetOf, List.getD_eq_getElem?_getD, hj]

end

/-! ### The bulk read -/

/-- The bulk read filled: its block is stored from byte 164 on, and the packets are validated (R224,
R225). -/
theorem runBulk_filled {s : State} {bulk : List Byte} {ds : List DataAnswer} {bs : List Byte}
    (hd : s.dbRsp = .ok :: ds) (hb : s.stream = bulk ++ bs) (hl : bulk.length = bulkBytes) :
    runBulk s = runValidate { s with
      faState := .bulk, asmBuf := s.asmBuf.writeBlock packetBytes bulk, dbRsp := ds, stream := bs
      trace := .dataRead bulkBytes true :: s.trace } := by
  rw [runBulk, dataRead_ok (by exact hd) (by simp [hb, hl]), onReply_ok]
  simp [hb, hl.symm]

/-- CAPTURE once both reads have filled `asm_buf` (R220 to R224). -/
def frameRead (s : State) (as : List Attempt) (first bulk : List Byte) (ds : List DataAnswer)
    (bs : List Byte) : State :=
  { lineZeroFound s as first ds bs with
    faState := .bulk, asmBuf := storedFrame s.asmBuf first bulk
    trace := .dataRead bulkBytes true :: .dataRead packetBytes true :: attempted as s.trace }

theorem exec_capture_frameRead {s : State} {as : List Attempt} {first bulk : List Byte}
    {ds : List DataAnswer} {bs : List Byte} (h : FindsLineZero s as first (.ok :: ds) (bulk ++ bs))
    (hl : bulk.length = 9676) :
    exec .capture s = .next (runValidate (frameRead s as first bulk ds bs)) := by
  rw [exec_capture_found h, runBulk_filled rfl rfl hl]
  rfl

/-! ### The validation -/

/-- An accepted packet leads to the next one (R225). -/
theorem validateFrom_accept {s : State} {i : Nat} (h : validate (s.asmBuf.packet i) = .accept)
    (n : Nat) : validateFrom (n + 1) i s = validateFrom n (i + 1) (validating i s) := by
  rw [validateFrom, h, validating]

/-- The first discard ends the capture (R227). -/
theorem validateFrom_discard {s : State} {i : Nat} {r : Reason}
    (h : validate (s.asmBuf.packet i) = .discard r) (n : Nat) :
    validateFrom (n + 1) i s = respond (.noUpdate r i) (logDiscard r i (validating i s)) := by
  rw [validateFrom, h, validating]

/-- From `s` to `t` some packets have been accepted: only the assembler's place, the index and the
validator's latches differ (R200, R225). -/
def Validated (s t : State) : Prop :=
  ∃ f i sc c, t = { s with faState := f, pktIdx := i, scratch := sc, crcR := c }

theorem Validated.refl (s : State) : Validated s s := ⟨_, _, _, _, rfl⟩

theorem Validated.next {s t : State} (h : Validated s t) (i : Nat) :
    Validated s (validating i t) := by
  obtain ⟨f, j, sc, c, rfl⟩ := h
  rw [validating, latchValidation_eq]
  exact ⟨_, _, _, _, rfl⟩

theorem Validated.asmBuf {s t : State} (h : Validated s t) : t.asmBuf = s.asmBuf := by
  obtain ⟨f, i, sc, c, rfl⟩ := h
  rfl

theorem Validated.fbLock {s t : State} (h : Validated s t) : t.fbLock = s.fbLock := by
  obtain ⟨f, i, sc, c, rfl⟩ := h
  rfl

theorem validating_pktIdx (i : Nat) (s : State) : (validating i s).pktIdx = BitVec.ofNat 6 i := by
  rw [validating, latchValidation_eq]

/-- When the first `k` packets are accepted the validation comes to packet `k` (R225). -/
theorem validateFrom_accepted {s : State} {k : Nat}
    (h : ∀ j < k, validate (s.asmBuf.packet j) = .accept) (n : Nat) :
    ∃ t, Validated s t ∧ validateFrom (k + n) 0 s = validateFrom n k t := by
  induction k generalizing n with
  | zero => exact ⟨s, .refl s, by rw [Nat.zero_add]⟩
  | succ k ih =>
    obtain ⟨t, ht, hk⟩ := ih (fun j hj => h j (by omega)) (n + 1)
    refine ⟨validating k t, ht.next k, ?_⟩
    rw [Nat.add_assoc, Nat.add_comm 1, hk, validateFrom_accept (ht.asmBuf ▸ h k k.lt_succ_self)]

/-- With the lock free the frame in `asm_buf` is published, and the lock is free again (R228). -/
theorem runPublish_free {s : State} (h : s.fbLock = false) :
    runPublish s = respond .updated { s with fb := s.asmBuf, fbValid := true } := by
  cases s
  simp_all [runPublish, respond, lock, unlock, emit]

/-- With every packet accepted and the lock free, the frame in `asm_buf` is published (R225, R228). -/
theorem runValidate_accepted {s : State} (h : ∀ j < 60, validate (s.asmBuf.packet j) = .accept)
    (hl : s.fbLock = false) :
    ∃ t, Validated s t ∧ t.pktIdx = 59#6
      ∧ runValidate s = respond .updated { t with fb := t.asmBuf, fbValid := true } := by
  obtain ⟨t, ht, hk⟩ := validateFrom_accepted (k := 59) (fun j hj => h j (by omega)) 1
  have hv := ht.next 59
  refine ⟨validating 59 t, hv, validating_pktIdx 59 t, ?_⟩
  rw [runValidate, show packetsPerFrame = 59 + 1 from rfl, hk,
    validateFrom_accept (ht.asmBuf ▸ h 59 (by omega)), validateFrom,
    runPublish_free (hv.fbLock.trans hl)]

/-- The lowest-indexed discard ends the capture with its reason and index (R227). -/
theorem runValidate_discarded {s : State} {i : Nat} {r : Reason} (hi : i < 60)
    (ha : ∀ j < i, validate (s.asmBuf.packet j) = .accept)
    (hr : validate (s.asmBuf.packet i) = .discard r) :
    ∃ t, Validated s t ∧ runValidate s = respond (.noUpdate r i) (logDiscard r i t) := by
  obtain ⟨t, ht, hk⟩ := validateFrom_accepted ha (59 - i + 1)
  refine ⟨validating i t, ht.next i, ?_⟩
  rw [runValidate, show packetsPerFrame = i + (59 - i + 1) by simp only [packetsPerFrame]; omega, hk,
    validateFrom_discard (ht.asmBuf ▸ hr)]

/-- The LOG record of a packet of a frame, as reason and index in its two bytes (R290). -/
theorem logRecord_eq (r : Reason) {i : Nat} (hi : i < 60) :
    logRecord r i = r.code.zeroExtend 16 <<< 8 ||| BitVec.ofNat 16 i := by
  cases r <;> revert i <;> decide

/-! ### The statements about a whole frame -/

/-- Settles O33: after the two reads each packet of `asm_buf` is one of the bytes received, so all are
accepted, and the publication copies `asm_buf`. -/
theorem capturePublishesAValidFrame : Obligations.CapturePublishesAValidFrame := by
  unfold Obligations.CapturePublishesAValidFrame
  intro s as first bulk ds bs h hb hl hw hv
  have ⟨_, _, _, _, _, hf, _⟩ := h
  have hp : ∀ j < 60, validate ((storedFrame s.asmBuf first bulk).packet j) = .accept := fun j hj =>
    (congrArg validate (packet_storedFrame hw hf hb hj)).trans (hv j hj)
  obtain ⟨t, ⟨f, i, sc, c, rfl⟩, hi, hr⟩ :=
    runValidate_accepted (s := frameRead s as first bulk ds bs) hp hl
  exact ⟨_, (exec_capture_frameRead h hb).trans (congrArg _ hr), respond_idle _ _, rfl,
    readBlock_storedFrame hw hf hb, fun _ => read_storedFrame hf hb, rfl, hi, rfl, rfl, rfl⟩

/-- Settles O34: the packets below `i` are accepted, so the validation ends at packet `i`, before the
publication. -/
theorem captureDiscardsAnInvalidFrame : Obligations.CaptureDiscardsAnInvalidFrame := by
  unfold Obligations.CaptureDiscardsAnInvalidFrame
  intro s as first bulk ds bs i r h hb hw hi ha hr
  have ⟨_, _, _, _, _, hf, _⟩ := h
  have hp : ∀ j ≤ i, validate ((storedFrame s.asmBuf first bulk).packet j)
      = validate (packetOf (first ++ bulk) j) := fun j hj =>
    congrArg validate (packet_storedFrame hw hf hb (by omega))
  obtain ⟨t, ⟨f, k, sc, c, rfl⟩, hv⟩ :=
    runValidate_discarded (s := frameRead s as first bulk ds bs) hi
      (fun j hj => (hp j hj.le).trans (ha j hj)) ((hp i le_rfl).trans hr)
  refine ⟨_, (exec_capture_frameRead h hb).trans (congrArg _ hv), respond_idle _ _, rfl, rfl, rfl,
    rfl, ?trace⟩
  rw [← logRecord_eq r hi]
  rfl

end Sys2Proof.Machine
end

section
/-! PROOF. Dispatch and the multiplexer (R77, R251 to R253): what a turn of the OP agent or of a FRAME
port leads to, and that a run sends out only what its channel admits. -/

namespace Sys2Proof.Machine

open Sys2Proof.Claims

/-! ### Taking a request -/

/-- The step of an idle OP agent that takes a whole request the decoder reads (R252). -/
theorem step_of_accepted_op {s : State} {l : List Turn} {w : Word64} {ws : List Word64} {i : Instr}
    (hb : s.opBusy = false) (ht : OpTurnNext s l) (hw : s.opWords = w :: ws)
    (hl : tailLength .op w ≤ s.opPay.length)
    (hd : decode s.cfg ⟨.op, w, s.opPay.take (tailLength .op w)⟩ = .ok i) :
    step s = exec i { s with
      sched := l, opWords := ws, opPay := s.opPay.drop (tailLength .op w) } := by
  refine step_of_run ?_
  rw [nextMove_of_opTurnNext ht]
  simp [opTurn, hb, hw, Nat.not_lt.2 hl, hd]

/-- The step of a FRAME port that carries a request the decoder reads, the lock being free (R253). -/
theorem step_of_accepted_frame {s : State} {l : List Turn} {k : Nat} {w : Word64} {i : Instr}
    (ht : s.sched = .frame k w :: l) (hk : k < s.cfg.nReaders) (hl : s.fbLock = false)
    (hd : decode s.cfg ⟨.frame k, w, []⟩ = .ok i) : step s = exec i { s with sched := l } := by
  refine step_of_run ?_
  simp [nextMove, ht, frameTurn, Nat.not_le.2 hk, hl, hd]

/-- Settles O6: with the request complete and legal, each port's turn is the branch that executes what
was decoded. -/
theorem stepRunsTheDecodedRequest : Obligations.StepRunsTheDecodedRequest := by
  unfold Obligations.StepRunsTheDecodedRequest
  exact ⟨fun _ _ _ _ _ hb ht hw hl hd => step_of_accepted_op hb ht hw hl hd,
    fun _ _ _ _ _ ht hk hl hd => step_of_accepted_frame ht hk hl hd⟩

/-! ### A request that waits -/

/-- The OP agent's turn with an operation in flight goes on with it (R78). -/
theorem step_of_busy {s : State} {l : List Turn} (hb : s.opBusy = true) (ht : OpTurnNext s l) :
    step s = .next (resume { s with sched := l }) := by
  refine step_of_stay ?_
  rw [nextMove_of_opTurnNext ht]
  simp [opTurn, hb]

/-- No request is complete at the OP port: there is no word, or its tail is not all there (R95;
log entry 8). -/
abbrev State.NoRequest (s : State) : Prop :=
  s.opWords = [] ∨ ∃ w ws, s.opWords = w :: ws ∧ s.opPay.length < tailLength .op w

/-- The turn of an idle OP agent with no complete request at its port. -/
theorem step_of_noRequest {s : State} {l : List Turn} (hb : s.opBusy = false)
    (ht : OpTurnNext s l) (hr : s.NoRequest) : step s = .next { s with sched := l } := by
  refine step_of_stay ?_
  rw [nextMove_of_opTurnNext ht]
  rcases hr with hw | ⟨w, ws, hw, hlt⟩
  · simp [opTurn, hb, hw]
  · simp [opTurn, hb, hw, hlt]

/-- An operation of the OP port does not start while another is in flight (R77; log entry 16). -/
theorem exec_of_busy {i : Instr} {s : State} (hb : s.opBusy = true) (hi : i.opcode ≠ .rdframe) :
    exec i s = .next s := by
  rw [exec_eq_dispatch hi, dispatch, if_pos hb]

/-- Only RDFRAME has the opcode of RDFRAME (R96). -/
theorem opcode_ne_rdframe {i : Instr} (hi : ∀ k, i ≠ .rdframe k) : i.opcode ≠ .rdframe := by
  cases i with
  | rdframe k => exact absurd rfl (hi k)
  | _ => exact nofun

/-- Going on with an operation touches no port, no schedule and nothing of the other agents. -/
theorem resume_sameSurroundings (s : State) : SameSurroundings s (resume s) := by
  cases hc : s.chanSel with
  | none => rcases resume_none_cases hc with hr | hr <;> rw [hr] <;> exact ⟨rfl, rfl, rfl, rfl, rfl⟩
  | ctrl =>
    rw [resume_of_ctrl hc]
    have hr := (ccsRun_ends s).only
    exact ⟨hr.cfg, hr.fbLock, hr.sched, hr.opWords, hr.opPay⟩
  | data =>
    rw [resume_of_data hc]
    have hr := (faRun_ends s).only
    exact ⟨hr.cfg, hr.fbLock, hr.sched, hr.opWords, hr.opPay⟩

/-- Settles O7: with an operation in flight the OP agent's turn is `resume`, which leaves the port
alone, and a dispatch answers the same state; an idle agent needs a whole request to move. -/
theorem requestWaitsAtThePort : Obligations.RequestWaitsAtThePort := by
  unfold Obligations.RequestWaitsAtThePort
  refine ⟨fun s l hb ht => ?goesOn, fun s i hb hi => exec_of_busy hb (opcode_ne_rdframe hi),
    fun s l hb ht hr => step_of_noRequest hb ht hr⟩
  case goesOn =>
    obtain ⟨-, -, hsched, hwords, hpay⟩ := resume_sameSurroundings { s with sched := l }
    exact ⟨_, step_of_busy hb ht, rfl, hwords, hpay, hsched⟩

/-! ### The grant -/

/-- Everything sent out on the way from `s` to `t` is admitted by the grant `c` (R251). -/
abbrev SendsWithin (c : ChanSel) (s t : State) : Prop := Grew (fun e => c.admits e = true) s t

/-- Every grant admits a response on the OP port. -/
theorem admits_opResponse (c : ChanSel) (w : Word64) : c.admits (.opResponse w) = true := by
  cases c <;> rfl

/-- No event is activity of both buses. -/
theorem isData_of_isCtrl {e : Event} (h : e.isCtrl = true) : e.isData = false := by
  cases e with
  | dataRead => cases h
  | _ => rfl

theorem isCtrl_of_isData {e : Event} (h : e.isData = true) : e.isCtrl = false := by
  cases e with
  | dataRead => rfl
  | _ => cases h

theorem CtrlEvent.admitted {Q : Result → Prop} {e : Event} (h : CtrlEvent Q e) :
    ChanSel.ctrl.admits e = true := by
  cases h with
  | bus he => exact congrArg not (isData_of_isCtrl he)
  | response => rfl

theorem DataEvent.admitted {Q : Result → Prop} {e : Event} (h : DataEvent Q e) :
    ChanSel.data.admits e = true := by
  cases h with
  | bus he => exact congrArg not (isCtrl_of_isData he)
  | log => rfl
  | response => rfl

theorem CtrlEnds.sendsWithin {Q : Result → Prop} {L : List CcsState} {s t : State}
    (h : CtrlEnds Q L s t) : SendsWithin .ctrl s t := h.grew.mono fun _ => CtrlEvent.admitted

theorem DataEnds.sendsWithin {Q : Result → Prop} {L : List FaState} {s t : State}
    (h : DataEnds Q L s t) : SendsWithin .data s t := h.grew.mono fun _ => DataEvent.admitted

theorem respond_sendsWithin (c : ChanSel) (r : Result) {s t : State} (h : t.trace = s.trace) :
    SendsWithin c s (respond r t) :=
  .one (congrArg _ h) (admits_opResponse c r.word)

/-- The operand latches are not seen outside. -/
theorem opLatch_trace (i : Instr) (s : State) : (opLatch i s).trace = s.trace := by
  unfold opLatch
  cases i.opcode with
  | pval => dsimp only; rw [latchValidation_eq]
  | _ => rfl

/-- A run of the OP agent's operation sends out only what its channel admits (R251). -/
theorem opRun_sendsWithin {i : Instr} (hi : i.opcode ≠ .rdframe) (s : State) :
    SendsWithin (chanOf i.opcode) (opLatch i (accept i.opcode s))
      (opStart i (opLatch i (accept i.opcode s))) := by
  cases hc : chanOf i.opcode with
  | ctrl => exact (ctrlOp_ends hc s).sendsWithin
  | data =>
    rw [captureOp_eq (eq_capture_of_chanOf hc)]
    exact (Grew.refl (opLatch_trace ..).symm).trans
      (runSync_ends (captureBegun s) rfl rfl).sendsWithin
  | none =>
    generalize opLatch i (accept i.opcode s) = u
    unfold opStart
    cases ho : i.opcode with
    | armtrig => exact respond_sendsWithin _ _ rfl
    | pval => exact respond_sendsWithin _ _ rfl
    | waittrig =>
      rcases runWait_cases u with hw | hw <;> dsimp only <;> rw [hw]
      · exact .refl rfl
      · exact respond_sendsWithin _ _ rfl
    | rdframe => exact absurd ho hi
    | _ => simp [ho, chanOf] at hc

theorem exec_sendsWithin {i : Instr} {s t : State} (h : exec i s = .next t) :
    SendsWithin (chanOf i.opcode) s t := by
  rcases exec_cases h with rfl | ⟨hi, k, w, data, rfl⟩ | ⟨-, hi, rfl⟩
  · exact .refl rfl
  · rw [hi]
    exact .one rfl rfl
  · exact (Grew.refl (opLatch_trace i (accept i.opcode s))).trans (opRun_sendsWithin hi s)

theorem resume_sendsWithin (s : State) : SendsWithin s.chanSel s (resume s) := by
  cases hc : s.chanSel with
  | ctrl => rw [resume_of_ctrl hc]; exact (ccsRun_ends s).sendsWithin
  | data => rw [resume_of_data hc]; exact (faRun_ends s).sendsWithin
  | none =>
    rcases resume_none_cases hc with hr | hr <;> rw [hr]
    · exact .refl rfl
    · exact respond_sendsWithin _ _ rfl

/-- Settles O46: a run of the sequencer sends out control-bus events and responses, one of the
assembler data reads, LOG records and responses, and what has no channel responses alone. -/
theorem channelGrantIsRespected : Obligations.ChannelGrantIsRespected := by
  unfold Obligations.ChannelGrantIsRespected
  exact ⟨fun _ _ _ h => exec_sendsWithin h, resume_sendsWithin⟩

end Sys2Proof.Machine
end

section
/-! PROOF. The capture trigger (R254 to R258): an edge, ARMTRIG, and WAITTRIG at once, held until an
edge, or held for ever. -/

namespace Sys2Proof.Machine

open Sys2Proof.Claims

/-! ### The edge and the two operations -/

theorem step_of_edge {s : State} {l : List Turn} (ht : s.sched = .edge :: l) :
    step s = .next (edge { s with sched := l }) := by
  refine step_of_stay ?_
  simp only [nextMove, ht]

theorem step_of_edge_armed {s : State} {l : List Turn} (ht : s.sched = .edge :: l)
    (ha : s.trigArmed = true) :
    step s = .next { s with sched := l, trigPending := true, trigArmed := false } := by
  rw [step_of_edge ht, edge, if_pos ha]

theorem step_of_edge_disarmed {s : State} {l : List Turn} (ht : s.sched = .edge :: l)
    (ha : s.trigArmed = false) : step s = .next { s with sched := l } := by
  rw [step_of_edge ht, edge, if_neg (by simp [ha])]

/-- Settles O8: the two branches of `edge`, at the state with the turn taken. -/
theorem edgeLatchesOnlyWhenArmed : Obligations.EdgeLatchesOnlyWhenArmed := by
  unfold Obligations.EdgeLatchesOnlyWhenArmed
  exact fun _ _ ht => ⟨step_of_edge_armed ht, step_of_edge_disarmed ht⟩

/-- Settles O39: accepted, armed, and the response in the same step. -/
theorem armtrigResult : Obligations.ArmtrigResult := by
  unfold Obligations.ArmtrigResult
  exact fun s hb => exec_idle hb nofun

theorem runWait_pending {s : State} (h : s.trigPending = true) :
    runWait s = respond .done { s with trigPending := false } := if_pos h

theorem runWait_waiting {s : State} (h : s.trigPending = false) : runWait s = s :=
  if_neg (by simp [h])

theorem exec_waittrig_idle {s : State} (hb : s.opBusy = false) :
    exec .waittrig s = .next (runWait (accept .waittrig s)) :=
  exec_idle hb nofun

theorem exec_waittrig_pending {s : State} (hb : s.opBusy = false) (hp : s.trigPending = true) :
    exec .waittrig s = .next (respond .done { accept .waittrig s with trigPending := false }) :=
  (exec_waittrig_idle hb).trans (congrArg _ (runWait_pending (s := accept .waittrig s) hp))

theorem exec_waittrig_waiting {s : State} (hb : s.opBusy = false) (hp : s.trigPending = false) :
    exec .waittrig s = .next (accept .waittrig s) :=
  (exec_waittrig_idle hb).trans (congrArg _ (runWait_waiting (s := accept .waittrig s) hp))

/-- Settles O40: the two branches of the wait, at the accepted state. -/
theorem waittrigResult : Obligations.WaittrigResult := by
  unfold Obligations.WaittrigResult
  exact fun _ hb => ⟨exec_waittrig_pending hb, exec_waittrig_waiting hb⟩

/-! ### A held WAITTRIG -/

/-- WAITTRIG in flight at its wait (R257). -/
abbrev State.Waiting (s : State) : Prop :=
  s.opBusy = true ∧ s.chanSel = .none ∧ s.opR = Opcode.waittrig.byte

/-- The OP agent's turn goes on with a held WAITTRIG as its wait (R257). -/
theorem step_of_waiting {s : State} {l : List Turn} (hs : s.Waiting) (ht : OpTurnNext s l) :
    step s = .next (runWait { s with sched := l }) := by
  obtain ⟨hb, hc, ho⟩ := hs
  rw [step_of_busy hb ht, resume, hc]
  exact congrArg _ (if_pos ho)

/-- Settles O41: WAITTRIG holds with nothing pending, the edge finds the trigger armed, and the OP
agent's turn then consumes the wake-up. -/
theorem heldWaittrigEndsAfterAnEdge : Obligations.HeldWaittrigEndsAfterAnEdge := by
  unfold Obligations.HeldWaittrigEndsAfterAnEdge
  intro s l hb ha hp ht
  have woken : step (accept .waittrig s) = .next { accept .waittrig s with
      sched := .op :: l, trigPending := true, trigArmed := false } := step_of_edge_armed ht ha
  exact ⟨_, _, _, exec_waittrig_waiting hb hp, rfl, rfl, woken, rfl,
    (step_of_waiting ⟨rfl, rfl, rfl⟩ (.inl rfl)).trans (congrArg _ (runWait_pending rfl)),
    respond_idle _ _, rfl, rfl, rfl, rfl⟩

/-! ### A dead wait -/

/-- From `s` to `t` the schedule moves on and events are sent out, none of them a response on the OP
port; nothing else changes. -/
def PassesBy (s t : State) : Prop :=
  ∃ l new, t = { s with sched := l, trace := new ++ s.trace } ∧ ∀ w, Event.opResponse w ∉ new

theorem PassesBy.turn (s : State) (l : List Turn) : PassesBy s { s with sched := l } :=
  ⟨l, [], rfl, nofun⟩

/-- A response on a FRAME port is none on the OP port. -/
theorem PassesBy.frameResponse (k : Nat) (w : Word64) (data : List Byte) (s : State) :
    PassesBy s (emit (.frameResponse k w data) s) :=
  ⟨s.sched, [_], rfl, by simp⟩

theorem PassesBy.trans {s t u : State} (h : PassesBy s t) (h' : PassesBy t u) : PassesBy s u := by
  obtain ⟨_, new, rfl, hn⟩ := h
  obtain ⟨l, new', rfl, hn'⟩ := h'
  exact ⟨l, new' ++ new, by simp, fun w => by simp [hn w, hn' w]⟩

theorem PassesBy.deadWait {s t : State} (h : PassesBy s t) (hs : s.DeadWait) : t.DeadWait := by
  obtain ⟨_, _, rfl, -⟩ := h
  exact hs

/-- While an operation is in flight, `exec` serves at most a FRAME port (R77, R253). -/
theorem exec_passesBy {s : State} (hb : s.opBusy = true) (i : Instr) :
    ∃ t, exec i s = .next t ∧ PassesBy s t := by
  cases i with
  | rdframe k =>
    by_cases hl : s.fbLock = true
    · exact ⟨s, if_pos hl, .turn s s.sched⟩
    · rw [exec_rdframe_free (by simpa using hl)]
      split <;> exact ⟨_, rfl, .frameResponse ..⟩
  | _ => exact ⟨s, exec_of_busy hb nofun, .turn s s.sched⟩

/-- While an operation is in flight, a FRAME port's turn sends at most a response on that port
(R253). -/
theorem step_of_frame_passesBy {s : State} {l : List Turn} {k : Nat} {w : Word64}
    (hb : s.opBusy = true) (hm : nextMove s = frameTurn k w s { s with sched := l }) :
    ∃ t, step s = .next t ∧ PassesBy s t := by
  unfold frameTurn at hm
  split at hm
  next => exact ⟨_, step_of_stay hm, .turn s l⟩
  split at hm
  next i _ =>
    split at hm
    next => exact ⟨s, step_of_stay hm, .turn s s.sched⟩
    next =>
      obtain ⟨t, ht, hp⟩ := exec_passesBy (s := { s with sched := l }) hb i
      exact ⟨t, (step_of_run hm).trans ht, (PassesBy.turn s l).trans hp⟩
  next => exact ⟨_, step_of_stay hm, (PassesBy.turn s l).trans (.frameResponse ..)⟩

/-- No turn of any agent ends a dead wait: the OP agent finds nothing pending, an edge is lost, and a
reset is not offered (R256, R257; log entry 19). -/
theorem step_of_deadWait {s : State} (hs : s.DeadWait) : ∃ t, step s = .next t ∧ PassesBy s t := by
  obtain ⟨hb, hc, ho, ha, hp⟩ := hs
  have onOp : ∀ l, OpTurnNext s l → step s = .next { s with sched := l } := fun l ht =>
    (step_of_waiting ⟨hb, hc, ho⟩ ht).trans
      (congrArg _ (runWait_waiting (s := { s with sched := l }) hp))
  rcases nextMove_cases s with ⟨ht, -⟩ | ⟨l, ht, -⟩ | ⟨k, w, l, -, hm⟩ | ⟨l, ht, -⟩ | ⟨l, -, hm⟩
  · exact ⟨_, onOp [] (.inr ⟨ht, rfl⟩), .turn s []⟩
  · exact ⟨_, onOp l (.inl ht), .turn s l⟩
  · exact step_of_frame_passesBy hb hm
  · exact ⟨_, step_of_edge_disarmed ht ha, .turn s l⟩
  · exact ⟨_, (step_of_stay hm).trans (congrArg _ (if_pos hb)), .turn s l⟩

theorem run_succ {s t : State} (h : step s = .next t) (n : Nat) :
    Host.Core.run core (n + 1) s = Host.Core.run core n t := by
  have hs : core.step s = .next t := h
  simp only [Host.Core.run, hs]

/-- No number of steps ends a dead wait. -/
theorem run_of_deadWait (n : Nat) {s : State} (hs : s.DeadWait) :
    ∃ t, Host.Core.run core n s = .next t ∧ PassesBy s t := by
  induction n generalizing s with
  | zero => exact ⟨s, rfl, .turn s s.sched⟩
  | succ n ih =>
    obtain ⟨t, ht, hp⟩ := step_of_deadWait hs
    obtain ⟨u, hu, hq⟩ := ih (hp.deadWait hs)
    exact ⟨u, (run_succ ht n).trans hu, hp.trans hq⟩

/-- Settles O42: every step of a dead wait leaves all but the schedule and the trace as they are, so
the wait stays dead for any number of steps. That a reset's turn changes nothing then is the model's
choice (R51, log entry 19). -/
theorem disarmedWaittrigNeverReturns : Obligations.DisarmedWaittrigNeverReturns := by
  unfold Obligations.DisarmedWaittrigNeverReturns
  intro n s hs
  obtain ⟨t, ht, hp⟩ := run_of_deadWait n hs
  have hdead := hp.deadWait hs
  obtain ⟨l, new, rfl, hnew⟩ := hp
  exact ⟨_, ht, hdead, new, rfl, hnew⟩

end Sys2Proof.Machine
end

section
/-! PROOF. Exceptional ends (R272, R282 to R284): the bulk read that fails, and that a step answers a
next state whatever happens. -/

namespace Sys2Proof.Machine

open Sys2Proof.Claims

/-! ### The bulk read that fails -/

/-- The bulk read failed: no retry, and `asm_buf` is as the synchronisation step left it (R224, R272). -/
theorem runBulk_failed {s : State} {lost : List Byte} {ds : List DataAnswer} {bs : List Byte}
    (hd : s.dbRsp = .err lost.length :: ds) (hb : s.stream = lost ++ bs) :
    runBulk s = raise .dataBusError { s with
      faState := .bulk, dbRsp := ds, stream := bs, trace := .dataRead bulkBytes false :: s.trace } := by
  rw [runBulk, dataRead_err (by exact hd) (by simp [hb]), onReply_err]
  simp [hb]

/-- Settles O35: the synchronisation step has stored the first packet at offset 0, and the failed bulk
read ends the capture before anything else is stored. -/
theorem captureBulkReadFailureIsNotRetried : Obligations.CaptureBulkReadFailureIsNotRetried := by
  unfold Obligations.CaptureBulkReadFailureIsNotRetried
  intro s as first lost ds bs h
  have ⟨_, _, _, _, _, hf, _⟩ := h
  refine ⟨_, (exec_capture_found h).trans (congrArg _ (runBulk_failed rfl rfl)), respond_idle _ _, rfl,
    rfl, ?packet, ?above, rfl, rfl, rfl⟩
  case packet =>
    exact fun a ha => (Memory.read_writeBlock s.asmBuf 0 first a).trans
      (if_pos ⟨a.zero_le, by omega⟩)
  case above =>
    exact fun a ha => (Memory.read_writeBlock s.asmBuf 0 first a).trans (if_neg (by omega))

/-! ### Every step answers -/

/-- No operation faults or is refused: a wait is a next state too (R283, R284). -/
theorem exec_answers (i : Instr) (s : State) : ∃ t, exec i s = .next t := by
  cases i with
  | rdframe k =>
    cases hl : s.fbLock with
    | true => exact ⟨s, if_pos hl⟩
    | false => exact ⟨_, exec_rdframe_free hl k⟩
  | _ =>
    rw [exec_eq_dispatch]
    · exact dispatch_next _ _ s
    · exact nofun

/-- Settles O56: a move that starts no operation is itself the next state, and every operation answers
one. -/
theorem everyStepAnswersANextState : Obligations.EveryStepAnswersANextState := by
  unfold Obligations.EveryStepAnswersANextState
  intro s
  cases hm : nextMove s with
  | stay t => exact ⟨t, step_of_stay hm⟩
  | run i t =>
    obtain ⟨u, hu⟩ := exec_answers i t
    exact ⟨u, (step_of_run hm).trans hu⟩

end Sys2Proof.Machine
end

section
/-! PROOF. A reset (R51, R301, R302): what it leaves of an idle core, and that its turn is dropped while
an operation is in flight. -/

namespace Sys2Proof.Machine

open Sys2Proof.Claims

theorem step_of_reset {s : State} {l : List Turn} (ht : s.sched = .reset :: l) :
    step s = .next (resetCore { s with sched := l }) := by
  refine step_of_stay ?_
  simp only [nextMove, ht]

/-- A reset of an idle core is the state after reset, with the inputs of the outside world and the
trace as they were (R301, R302). -/
theorem resetCore_idle {s : State} (hb : s.opBusy = false) :
    resetCore s = { State.resetWith s.cfg with
      sched := s.sched, opWords := s.opWords, opPay := s.opPay
      cbWriteRsp := s.cbWriteRsp, cbReadRsp := s.cbReadRsp, dbRsp := s.dbRsp, stream := s.stream
      timerRsp := s.timerRsp, trace := s.trace } := by
  rw [resetCore, if_neg (by simp [hb])]

/-- A reset is not offered while an operation is in flight (R51; log entry 19). -/
theorem resetCore_busy {s : State} (hb : s.opBusy = true) : resetCore s = s := if_pos hb

/-- With the lock free and no frame published, RDFRAME answers `Empty` and sends no bytes (R232). -/
theorem exec_rdframe_empty {s : State} (hl : s.fbLock = false) (hv : s.fbValid = false) (k : Nat) :
    exec (.rdframe k) s = .next (emit (.frameResponse k Result.empty.word []) s) := by
  rw [exec_rdframe_free hl, if_neg (by simp [hv])]

/-- Settles O50: the turn of an idle core leads to the state after reset, its inputs kept, in which the
lock is free and `fb_valid` is 0; the turn of a busy core is dropped, which is the model's choice (R51,
log entry 19). -/
theorem resetBetweenOperationsIsTotal : Obligations.ResetBetweenOperationsIsTotal := by
  unfold Obligations.ResetBetweenOperationsIsTotal
  intro s l ht
  rw [step_of_reset ht]
  constructor
  · intro hb
    rw [resetCore_idle (s := { s with sched := l }) hb]
    exact ⟨_, rfl, ⟨rfl, rfl, rfl, rfl⟩, rfl, rfl, rfl, rfl, rfl, rfl, rfl, rfl, rfl, rfl, rfl, rfl,
      rfl, rfl, exec_rdframe_empty rfl rfl⟩
  · intro hb
    rw [resetCore_busy (s := { s with sched := l }) hb]

end Sys2Proof.Machine
end

section
/-! PROOF. The result classes of an operation (R270, R279): every run, from acceptance on or gone on with
from where it was held, answers with a class of its row. -/

namespace Sys2Proof.Machine

open Sys2Proof.Claims

/-! ### The rows of the table -/

/-- The class of a result is one of the classes `L`. -/
abbrev Result.InRow (L : List Byte) (r : Result) : Prop := (responseFields r.word).1 ∈ L

/-- An event that an operation with the result classes `L` may send out: a response on the OP port only
with a class of them, and none on a FRAME port. -/
def Event.InRow (L : List Byte) : Event → Prop
  | .opResponse w => (responseFields w).1 ∈ L
  | .frameResponse _ _ _ => False
  | _ => True

theorem CtrlEvent.inRow {Q : Result → Prop} {L : List Byte} {e : Event}
    (hQ : ∀ r, Q r → r.InRow L) (h : CtrlEvent Q e) : e.InRow L := by
  cases h with
  | response hr => exact hQ _ hr
  | bus he =>
    cases e with
    | opResponse => cases he
    | frameResponse => cases he
    | _ => trivial

theorem DataEvent.inRow {Q : Result → Prop} {L : List Byte} {e : Event}
    (hQ : ∀ r, Q r → r.InRow L) (h : DataEvent Q e) : e.InRow L := by
  cases h with
  | response hr => exact hQ _ hr
  | log => trivial
  | bus he =>
    cases e with
    | opResponse => cases he
    | frameResponse => cases he
    | _ => trivial

/-- `RC` of an error class is its code (R270). -/
theorem inRow_error_iff {L : List Byte} {e : ErrorClass} :
    (Result.error e).InRow L ↔ e.code ∈ L := by
  rw [Result.InRow, Result.word, responseFields_mkResponse]

/-- `OK` is a class of every operation of the OP port. -/
theorem Result.succeeds.inRow {r : Result} (hr : r.succeeds) (c : Cfg) {o : Opcode}
    (ho : o ≠ .rdframe) : r.InRow (allowedClasses c o) := by
  have hrc : (responseFields r.word).1 = 0x00#8 := hr
  rw [Result.InRow, hrc]
  cases o with
  | rdframe => exact absurd rfl ho
  | _ => simp [allowedClasses]

/-- `CTRL_BUS_ERROR` is a class of every operation of the control channel. -/
theorem Result.ofStatus.inRow {r : Result} (hr : r.ofStatus) (c : Cfg) {o : Opcode}
    (ho : chanOf o = .ctrl) : r.InRow (allowedClasses c o) := by
  rcases hr with hr | rfl
  · exact hr.inRow c fun h => by simp [h, chanOf] at ho
  · rw [inRow_error_iff]
    cases o <;> simp_all [chanOf, allowedClasses, ErrorClass.code]

/-- `DEVICE_UNRESPONSIVE` is a class of the operations that poll, when there is a bound (R148). -/
theorem Result.ofPoll.inRow {r : Result} {c : Cfg} {o : Opcode} (hr : r.ofPoll c)
    (ho : .poll ∈ ccsPlaces o) (hc : chanOf o = .ctrl) : r.InRow (allowedClasses c o) := by
  rcases hr with hr | ⟨rfl, hm⟩
  · exact hr.inRow c hc
  · rw [inRow_error_iff]
    cases o <;>
      simp_all [ccsPlaces, ccsEntry, ccsAfter, tailStates, allowedClasses, ErrorClass.code]

theorem Result.ofCapture.inRow {r : Result} {c : Cfg} (hr : r.ofCapture c) :
    r.InRow (allowedClasses c .capture) := by
  rcases hr with rfl | ⟨a, i, rfl⟩ | rfl | ⟨rfl, hm⟩
  · exact ((succeeds_iff _).2 trivial).inRow c nofun
  · simp [Result.InRow, Result.word, responseFields_mkResponse, allowedClasses]
  · rw [inRow_error_iff]
    simp [allowedClasses, ErrorClass.code]
  · rw [inRow_error_iff]
    simp [allowedClasses, ErrorClass.code, hm]

/-! ### The runs -/

/-- The trace has grown by what the row of `o` allows (R279). -/
abbrev AnswersAs (o : Opcode) (s t : State) : Prop :=
  Grew (Event.InRow (allowedClasses s.cfg o)) s t

theorem respond_answersAs {o : Opcode} {r : Result} {s t : State} (hr : r.succeeds)
    (ho : o ≠ .rdframe) (ht : t.trace = s.trace) : AnswersAs o s (respond r t) :=
  .one (congrArg _ ht) (hr.inRow s.cfg ho)

/-- A run of the sequencer from where it reaches no poll raises no `DEVICE_UNRESPONSIVE` (R148,
R158). -/
theorem ccsRun_ends_ofStatus {s : State} (h : .poll ∉ ccsAfter (tailStates s.opR) s.ccsState) :
    CtrlEnds Result.ofStatus (ccsAfter (tailStates s.opR) s.ccsState) s (ccsRun s) := by
  unfold ccsRun
  cases hc : s.ccsState with
  | idle =>
    exact (ctrlGoing_latch s s.ccsState s.statusR s.rdValR s.scR s.pollCnt).hold
      (by simp [hc, ccsAfter])
  | wrReg => exact runWrReg_ends s
  | rdReg => exact runRdReg_ends s
  | rdData => exact runRdData_ends s
  | rdStatus => exact runRdStatus_ends s
  | _ => simp [hc, ccsAfter] at h

/-- Going on with an operation from any of its places in the sequencer. Those that do not poll reach no
poll from there either. -/
theorem ccsRun_answersAs {o : Opcode} {s : State} (hc : chanOf o = .ctrl) (hr : s.opR = o.byte)
    (hp : s.ccsState ∈ ccsPlaces o) : AnswersAs o s (ccsRun s) := by
  by_cases hpoll : .poll ∈ ccsPlaces o
  · exact (ccsRun_ends s).grew.mono fun _ => CtrlEvent.inRow fun _ h => h.inRow hpoll hc
  · refine (ccsRun_ends_ofStatus fun h => hpoll ?_).grew.mono fun _ =>
      CtrlEvent.inRow fun _ h => h.inRow s.cfg hc
    rw [hr] at h
    exact ccsAfter_subset hp _ h

theorem DataEnds.answersAs {L : List FaState} {s t : State}
    (h : DataEnds (Result.ofCapture s.cfg) L s t) : AnswersAs .capture s t :=
  h.grew.mono fun _ => DataEvent.inRow fun _ => Result.ofCapture.inRow

/-- A control-channel operation begins as it would go on from one of its places (R158). -/
theorem opStart_eq_ccsRun {i : Instr} (h : chanOf i.opcode = .ctrl) (s : State) :
    ∃ c ∈ ccsPlaces i.opcode, opStart i s = ccsRun { s with ccsState := c } := by
  unfold opStart
  cases ho : i.opcode with
  | execute =>
    dsimp only
    unfold runExec
    split
    · exact ⟨.wrLen, by simp [ccsPlaces, ccsEntry, ccsAfter], rfl⟩
    · exact ⟨.wrData, by simp [ccsPlaces, ccsEntry, ccsAfter], rfl⟩
  | wrreg => exact ⟨.wrReg, by simp [ccsPlaces, ccsEntry, ccsAfter], rfl⟩
  | rdreg => exact ⟨.rdReg, by simp [ccsPlaces, ccsEntry, ccsAfter], rfl⟩
  | set p => exact ⟨.wrData, by simp [ccsPlaces, ccsEntry, ccsAfter], rfl⟩
  | get p => exact ⟨.wrLen, by simp [ccsPlaces, ccsEntry, ccsAfter], rfl⟩
  | gboot => exact ⟨.rdStatus, by simp [ccsPlaces, ccsEntry, ccsAfter], rfl⟩
  | gifst => exact ⟨.rdStatus, by simp [ccsPlaces, ccsEntry, ccsAfter], rfl⟩
  | gstat => exact ⟨.rdStatus, by simp [ccsPlaces, ccsEntry, ccsAfter], rfl⟩
  | _ => simp [ho, chanOf] at h

/-- An operation of the OP agent, from its first state on, answers by its row. -/
theorem opStart_answersAs {i : Instr} {s : State} (hi : i.opcode ≠ .rdframe)
    (hr : s.opR = i.opcode.byte) : AnswersAs i.opcode s (opStart i s) := by
  cases hc : chanOf i.opcode with
  | ctrl =>
    obtain ⟨c, hp, hrun⟩ := opStart_eq_ccsRun hc s
    rw [hrun]
    exact ccsRun_answersAs (s := { s with ccsState := c }) hc hr hp
  | data =>
    unfold opStart
    rw [eq_capture_of_chanOf hc]
    exact (runSync_ends s rfl rfl).answersAs
  | none =>
    unfold opStart
    cases ho : i.opcode with
    | armtrig => exact respond_answersAs ((succeeds_iff .done).2 trivial) nofun rfl
    | pval => exact respond_answersAs ((succeeds_iff (.verdict _)).2 trivial) nofun rfl
    | waittrig =>
      rcases runWait_cases s with hw | hw <;> dsimp only <;> rw [hw]
      · exact .refl rfl
      · exact respond_answersAs ((succeeds_iff .done).2 trivial) nofun rfl
    | rdframe => exact absurd ho hi
    | _ => simp [ho, chanOf] at hc

/-- The operand latches are apart from the configuration and from `op_r` (R24). -/
theorem opLatch_cfg_opR (i : Instr) (s : State) :
    (opLatch i s).cfg = s.cfg ∧ (opLatch i s).opR = s.opR := by
  unfold opLatch
  cases i.opcode with
  | pval => dsimp only; rw [latchValidation_eq]; exact ⟨rfl, rfl⟩
  | _ => exact ⟨rfl, rfl⟩

/-! ### The operations -/

/-- An operation of the OP port answers by its row, or holds, or has not begun. -/
theorem exec_answersAs {i : Instr} {s t : State} (hi : i.opcode ≠ .rdframe)
    (h : exec i s = .next t) : AnswersAs i.opcode s t := by
  rcases exec_cases h with rfl | ⟨ho, -⟩ | ⟨-, -, rfl⟩
  · exact .refl rfl
  · exact absurd ho hi
  · obtain ⟨hcfg, hr⟩ := opLatch_cfg_opR i (accept i.opcode s)
    have hrun := opStart_answersAs hi hr
    rw [AnswersAs, hcfg] at hrun
    exact (Grew.refl (opLatch_trace i (accept i.opcode s))).trans hrun

/-- RDFRAME answers on its own FRAME port with `OK` or `EMPTY`, or waits for the lock (R232). -/
theorem exec_rdframe_answers {k : Nat} {s t : State} (h : exec (.rdframe k) s = .next t) :
    t = s ∨ ∃ (r : Result) (data : List Byte), (r = .frame ∨ r = .empty)
      ∧ t = emit (.frameResponse k r.word data) s := by
  cases hl : s.fbLock with
  | true =>
    have hw : exec (.rdframe k) s = .next s := if_pos hl
    exact .inl (Host.Outcome.next.inj (h.symm.trans hw))
  | false =>
    rw [exec_rdframe_free hl] at h
    rw [← Host.Outcome.next.inj h]
    split
    · exact .inr ⟨.frame, _, .inl rfl, rfl⟩
    · exact .inr ⟨.empty, _, .inr rfl, rfl⟩

/-- A held operation that is gone on with answers by its row, or holds again. -/
theorem resume_answersAs {o : Opcode} {s : State} (hr : s.opR = o.byte) (hh : s.holds = true) :
    AnswersAs o s (resume s) := by
  obtain ⟨hchan, hccs, hfa⟩ := (holds_of_byte hr).1 hh
  cases hc : chanOf o with
  | ctrl =>
    rw [resume_of_ctrl (hchan.trans hc)]
    exact ccsRun_answersAs hc hr hccs
  | data =>
    obtain rfl := eq_capture_of_chanOf hc
    rw [resume_of_data hchan]
    exact (faRun_ends s).answersAs
  | none =>
    have ho : o ≠ .rdframe := fun ho => by simp [ho, faPlaces] at hfa
    rcases resume_none_cases (hchan.trans hc) with h | h <;> rw [h]
    · exact .refl rfl
    · exact respond_answersAs ((succeeds_iff _).2 trivial) ho rfl

/-- Settles O47: RDFRAME's only answers are those on its own port; any other operation, begun or gone
on with, sends what `AnswersAs` allows, which is no response on a FRAME port. -/
theorem resultClassesPerOperation : Obligations.ResultClassesPerOperation := by
  unfold Obligations.ResultClassesPerOperation
  refine ⟨fun i s t h => ?atOnce, fun o s hr hh => ?held⟩
  case held =>
    obtain ⟨new, htrace, hnew⟩ := resume_answersAs hr hh
    exact ⟨new, htrace, fun w hw => hnew _ hw⟩
  case atOnce =>
    by_cases hi : ∀ k, i ≠ .rdframe k
    · obtain ⟨new, htrace, hnew⟩ := exec_answersAs (opcode_ne_rdframe hi) h
      exact ⟨new, htrace, fun w hw => hnew _ hw, fun k w data hw => (hnew _ hw).elim⟩
    · push Not at hi
      obtain ⟨k, rfl⟩ := hi
      rcases exec_rdframe_answers h with rfl | ⟨r, data, hr, rfl⟩
      · exact ⟨[], rfl, nofun, nofun⟩
      · refine ⟨[_], rfl, by simp, ?_⟩
        intro k' w data' hw
        obtain ⟨rfl, rfl, -⟩ := Event.frameResponse.inj (List.mem_singleton.1 hw)
        refine ⟨rfl, ?_⟩
        rcases hr with rfl | rfl <;> simp [Result.word, responseFields_mkResponse]

end Sys2Proof.Machine
end
